-- ==== Sys2Proof/Word.lean ====
section
/-!
DEFINITION. Sys2Proof/Word.lean: the words of the machine (bytes, samples, frames) and the two tags that name a
direction and a command port. Names follow spec/00_scope.md section 5 and spec/30_encoding.md R48 to R51.
-/

namespace Sys2Proof

/-- A byte of a frame: bit 7 is its most significant bit (spec/00_scope.md section 5). -/
abbrev Byte := BitVec 8

/-- Half a byte, the granularity at which the repackers work (R41(c)). -/
abbrev Nibble := BitVec 4

/-- A PCM sample, 16-bit two's complement; the CORE moves it whole and never computes with it (R48). -/
abbrev Sample := BitVec 16

/-- A 32-byte frame: the storage form (R49) or the packed form as emitted (R51). -/
abbrev Frame := Vector Byte 32

/-- The 31 significant bytes of a packed frame as the decode direction consumes them (R14, R52). -/
abbrev Stride := Vector Byte 31

/-- One codec frame unit of PCM, 160 samples (R12, R115). -/
abbrev Block := Vector Sample 160

/-- The direction tag of a context (R18). -/
inductive Dir where
  | enc
  | dec
  deriving DecidableEq, Repr, Inhabited

/-- Where a command arrives: the host command port, or the internal dispatch path on which only the Frame-Boundary
Driver issues micro-operations (R56, R61). -/
inductive Port where
  | host
  | internal
  deriving DecidableEq, Repr, Inhabited

end Sys2Proof
end

