-- ==== Sys2Proof/Config.lean ====
section
/-!
DEFINITION. Sys2Proof/Config.lean: the hardwired constants (R10 to R15, R30, R148), the engine port's types
(R111 to R117), the open parameters (R16) and the free values: constants without a body, of which no proof can see
the value.
-/

namespace Sys2Proof

/-! ## Hardwired constants -/

/-- `SAMPLE_RATE`: samples a second (R10). The CORE has no notion of time, so no operation uses it. -/
abbrev Config.SAMPLE_RATE : Nat := 8000

/-- `SAMPLE_W`: bits of a sample (R10), the width of `Sample`. -/
abbrev Config.SAMPLE_W : Nat := 16

/-- `CAP`: samples a PCM Sample Buffer holds (R11). -/
abbrev Config.CAP : Nat := 8000

/-- `CAP_BYTES`: the same in bytes (R11). -/
abbrev Config.CAP_BYTES : Nat := 16000

/-- `UNIT`: samples of one codec frame (R12). -/
abbrev Config.UNIT : Nat := 160

/-- `UNIT_BYTES`: bytes of one codec frame of PCM (R12). -/
abbrev Config.UNIT_BYTES : Nat := 320

/-- `SFRAME_LEN`: bytes of a storage-form frame (R13). -/
abbrev Config.SFRAME_LEN : Nat := 32

/-- `ENC_OK`: the status by which the engine reports a successful encode (R13). -/
abbrev Config.ENC_OK : Int := 32

/-- `PFRAME_LEN`: bytes of a packed frame as emitted (R14). -/
abbrev Config.PFRAME_LEN : Nat := 32

/-- `PSTRIDE`: bytes of a packed frame as consumed (R14). -/
abbrev Config.PSTRIDE : Nat := 31

/-- `SPEECH_BITS`: bits of a frame that carry speech (R14); the CORE moves all of them alike (R53). -/
abbrev Config.SPEECH_BITS : Nat := 244

/-- `MODE_SEL`: the fixed frame-type selector, also the `mode` argument of every encode call (R15, R114). -/
abbrev Config.MODE_SEL : Nat := 7

/-- `Q_SET`: the quality bit as a mask of the header byte, bit 2 (R50, conflict C1). -/
abbrev Config.Q_SET : Byte := 0x04

/-- `HDR`: the synthetic header byte (R15), which RPK.DEC forms from `MODE_SEL` and `Q_SET` (R50, R83). -/
abbrev Config.HDR : Byte := 0x3C

/-- `MAX_UNITS`: units in a full buffer (spec/00_scope.md section 4). -/
abbrev Config.MAX_UNITS : Nat := 50

/-! ## The engine port (R111 to R117) -/

/-- The opaque handle an engine returns, with the kind of capability that made it (R22, R161). The CORE never looks
at `id`. -/
structure Handle where
  kind : Dir
  id : Nat
  deriving DecidableEq, Repr, Inhabited

/-- What `encode` answers: a status and the payload bytes, which are read only when the status is 32 (R114). -/
structure EncodeAnswer where
  status : Int
  payload : Frame
  deriving DecidableEq, Repr, Inhabited

/-- The outcome of one engine transaction: an answer, or the silence of a stuck engine (R145, R158). -/
inductive Reply (α : Type) where
  | answer (a : α)
  | silent
  deriving DecidableEq, Repr, Inhabited

/-- One transaction the CORE issued, with every argument it passed (R112 to R117). The handle is what the context
held when it made the call. -/
inductive EngineCall where
  | createEncoder (dtxFlag : Int)
  | createDecoder
  | encode (handle : Option Handle) (mode : Nat) (pcm : List Sample) (forceFlag : Int)
  | decode (handle : Option Handle) (frame : Frame) (badFrameFlag : Int)
  | destroyEncoder (handle : Handle)
  | destroyDecoder (handle : Handle)
  deriving DecidableEq, Repr, Inhabited

/-- The two orders of the bytes of a sample (R40); no rule depends on it. -/
inductive ByteOrder where
  | little
  | big
  deriving DecidableEq, Repr, Inhabited

/-! ## Open parameters (R16, D15, D16): no value is given, so none is chosen -/

/-- `DTX_FLAG`, passed to `create_encoder` and used by nothing else (R91). -/
opaque Config.dtxFlag : Int

/-- `FORCE_FLAG`, passed to `encode` and used by nothing else (R95(j)). -/
opaque Config.forceFlag : Int

/-- `BFI_GOOD`, the "frame not bad" flag passed to `decode` and used by nothing else (R101). -/
opaque Config.bfiGood : Int

/-- `PCM_BYTE_ORDER`, used by no rule (R40): named here so that the parameter list of R16 is whole. -/
opaque Config.pcmByteOrder : ByteOrder

/-! ## Free values -/

/-- `draw(4)` of RPK.ENC, the low nibble of the last packed byte (R77, U1), by the number of draws made before.
Log entry 11. -/
opaque Config.drawNibble : Nat → Nibble

/-- What an element of `SB` holds that nothing has written since its contents last became unspecified (R31(b), U6),
by epoch and index. Log entry 12. -/
opaque Config.unspecSample : Nat → Nat → Sample

/-- The same for the bytes of `OB` (R34). -/
opaque Config.unspecOb : Nat → Nat → Byte

/-- The same for the bytes of `W` (R34). -/
opaque Config.unspecW : Nat → Nat → Byte

/-- The engine's answer to a create transaction when none is queued, by the whole history of transactions, the
present one included (R31(a), R111, U9): an id, `failure` (none), or silence. Log entry 5. -/
opaque Config.createReply : List EngineCall → Reply (Option Nat)

/-- The same for `encode` (R114). -/
opaque Config.encodeReply : List EngineCall → Reply EncodeAnswer

/-- The same for `decode` (R115). -/
opaque Config.decodeReply : List EngineCall → Reply Block

/-- The same for `destroy_encoder` and `destroy_decoder`, whose answer carries nothing (R116, R117). -/
opaque Config.destroyReply : List EngineCall → Reply Unit

end Sys2Proof
end

