-- ==== Sys2Proof/Syntax.lean ====
section
/-!
DEFINITION. Sys2Proof/Syntax.lean: the twelve operations of the CORE (spec/30_encoding.md R60, spec/opcode_table.json),
one constructor each, and the command record in which an operation arrives (R56, R57).
-/

namespace Sys2Proof

/-- The operation set of R60, in the table's order, with the operands each rule names. -/
inductive Instr where
  /-- `ACC.APPEND existing_count, new_data` (R68). -/
  | accAppend (existingCount : Nat) (newData : List Sample)
  /-- `ACC.COMPACT consumed_count, remaining_count` (R71). -/
  | accCompact (consumedCount remainingCount : Nat)
  /-- `RPK.ENC s[0 .. 32)` (R74). -/
  | rpkEnc (s : Frame)
  /-- `RPK.DEC q[0 .. 31)` (R81). -/
  | rpkDec (q : Stride)
  /-- `ENC.CREATE` (R90). -/
  | encCreate
  /-- `ENC.FRAMEIN len, nsamp, data` (R92). -/
  | encFramein (len nsamp : BitVec 16) (data : List Sample)
  /-- `ENC.FRAMEOUT` (R94). -/
  | encFrameout
  /-- `ENC.DESTROY` (R96). -/
  | encDestroy
  /-- `DEC.CREATE` (R100). -/
  | decCreate
  /-- `DEC.FRAMEIN len, nsamp, data` (R102). -/
  | decFramein (len nsamp : BitVec 16) (data : List Byte)
  /-- `DEC.FRAMEOUT` (R105). -/
  | decFrameout
  /-- `DEC.DESTROY` (R107). -/
  | decDestroy
  deriving DecidableEq, Repr, Inhabited

/-- The operand fields that accompany a command byte, each as a value: a command reads the ones its rule names and
no other. The spec gives them no byte serialisation (R57; spec/95_test_vectors.md section 9), so the model gives none.
DESIGN CHOICE, log entry 4. -/
structure Operands where
  /-- `len`, 16 bits unsigned (R54, R57). -/
  len : BitVec 16
  /-- `nsamp`, 16 bits unsigned (R54, R57). -/
  nsamp : BitVec 16
  /-- `data` as a stream of samples: a PCM delivery, or `new_data` of ACC.APPEND. -/
  samples : List Sample
  /-- `data` as a stream of bytes: a packed delivery. -/
  bytes : List Byte
  /-- `existing_count` or `consumed_count`. -/
  count : Nat
  /-- `remaining_count`. -/
  remaining : Nat
  /-- `s[0 .. 32)` of RPK.ENC. -/
  frame : Frame
  /-- `q[0 .. 31)` of RPK.DEC. -/
  stride : Stride
  deriving DecidableEq, Repr, Inhabited

/-- A command as it arrives: the port, the command byte (R56), the operand fields (R57). -/
structure Command where
  port : Port
  cmd : Byte
  args : Operands
  deriving DecidableEq, Repr, Inhabited

end Sys2Proof
end

