-- ==== Sys2Proof/WellFormed.lean ====
section
/-!
DEFINITION. Sys2Proof/WellFormed.lean: which instruction terms are deliveries in the sense of R54: the data field
holds exactly as many elements as the count that governs it.
-/

namespace Sys2Proof

/-- R54, R57: a PCM delivery's `data` is `nsamp` samples and a packed delivery's `data` is `len` bytes. The other
operands carry their bound in their type, and the counts of the micro-operations are checked by their meanings
(R36, R70). That `len = 2 × nsamp` is no matter of form: R93(d) makes it a refusal of the operation. -/
def Instr.wellFormed : Instr → Bool
  | .accAppend _ _ => true
  | .accCompact _ _ => true
  | .rpkEnc _ => true
  | .rpkDec _ => true
  | .encCreate => true
  | .encFramein _ nsamp data => data.length == nsamp.toNat
  | .encFrameout => true
  | .encDestroy => true
  | .decCreate => true
  | .decFramein len _ data => data.length == len.toNat
  | .decFrameout => true
  | .decDestroy => true

end Sys2Proof
end

