-- ==== Sys2Proof/Decode.lean ====
section
/-!
DEFINITION. Sys2Proof/Decode.lean: from a command to an operation or a rejection by name (R56, R60 to R62), the
encoder written from the same table, and the host's view of one opcode-table word.
-/

namespace Sys2Proof

/-- Why a command has no operation. -/
inductive DecodeError where
  /-- R62: the byte is none of R60's table, or a micro-operation's on the host port (R61). -/
  | reservedCommand (cmd : Byte)
  deriving DecidableEq, Repr, Inhabited

/-! ## The fields of the command byte (R56) -/

/-- Bit 7, `I`: a micro-operation. -/
def cmdI (cmd : Byte) : Bool := cmd.getLsbD 7

/-- Bits 6:5 and 3:2, which must be zero. -/
def cmdZeros (cmd : Byte) : Bool :=
  !cmd.getLsbD 6 && !cmd.getLsbD 5 && !cmd.getLsbD 3 && !cmd.getLsbD 2

/-- Bit 4, `D`: 0 encode, 1 decode. -/
def cmdD (cmd : Byte) : Dir := if cmd.getLsbD 4 then .dec else .enc

/-- Bits 1:0, `FN`. -/
def cmdFN (cmd : Byte) : BitVec 2 := cmd.setWidth 2

/-- `data[0 .. nsamp)` of a PCM delivery: the port's stream may go on after it (R54, R57). -/
def pcmData (o : Operands) : List Sample := o.samples.take o.nsamp.toNat

/-- `data[0 .. len)` of a packed delivery (R54, R57). -/
def packedData (o : Operands) : List Byte := o.bytes.take o.len.toNat

/-- The public operations, `I = 0`: the group of a direction and its function number (R60). -/
def decodePublic (d : Dir) (fn : BitVec 2) (o : Operands) : Instr :=
  match d, fn with
  | .enc, 0 => .encCreate
  | .enc, 1 => .encFramein o.len o.nsamp (pcmData o)
  | .enc, 2 => .encFrameout
  | .enc, 3 => .encDestroy
  | .dec, 0 => .decCreate
  | .dec, 1 => .decFramein o.len o.nsamp (packedData o)
  | .dec, 2 => .decFrameout
  | .dec, 3 => .decDestroy

/-- The micro-operations, `I = 1`. The two of the accumulator ignore `D`; `FN = 3` is unassigned (R60, R61, R62(b)). -/
def decodeMicro (d : Dir) (fn : BitVec 2) (o : Operands) : Option Instr :=
  match d, fn with
  | _, 0 => some (.accAppend o.count o.samples)
  | _, 1 => some (.accCompact o.count o.remaining)
  | .enc, 2 => some (.rpkEnc o.frame)
  | .dec, 2 => some (.rpkDec o.stride)
  | _, 3 => none

/-- Decoding, total on every command: bytes with a bit among 6, 5, 3, 2 are reserved (R62(a)); a micro-operation
is accepted on the internal dispatch path only (R61, R62(c)). A public command byte is the same command on either
path. -/
def decode (c : Command) : Except DecodeError Instr :=
  match cmdZeros c.cmd, cmdI c.cmd, c.port with
  | false, _, _ => .error (.reservedCommand c.cmd)
  | true, false, _ => .ok (decodePublic (cmdD c.cmd) (cmdFN c.cmd) c.args)
  | true, true, .host => .error (.reservedCommand c.cmd)
  | true, true, .internal =>
    match decodeMicro (cmdD c.cmd) (cmdFN c.cmd) c.args with
    | some i => .ok i
    | none => .error (.reservedCommand c.cmd)

/-! ## The encoder -/

/-- Operand fields that are all zero or empty. -/
def zeroOperands : Operands :=
  { len := 0, nsamp := 0, samples := [], bytes := [], count := 0, remaining := 0,
    frame := Vector.replicate 32 0, stride := Vector.replicate 31 0 }

/-- The command of an operation, by R60's table. ACC.APPEND and ACC.COMPACT have two bytes each, of which this takes
the one with `D = 0`. -/
def encode : Instr → Command
  | .accAppend n d => ⟨.internal, 0x80, { zeroOperands with count := n, samples := d }⟩
  | .accCompact c r => ⟨.internal, 0x81, { zeroOperands with count := c, remaining := r }⟩
  | .rpkEnc s => ⟨.internal, 0x82, { zeroOperands with frame := s }⟩
  | .rpkDec q => ⟨.internal, 0x92, { zeroOperands with stride := q }⟩
  | .encCreate => ⟨.host, 0x00, zeroOperands⟩
  | .encFramein len nsamp d => ⟨.host, 0x01, { zeroOperands with len := len, nsamp := nsamp, samples := d }⟩
  | .encFrameout => ⟨.host, 0x02, zeroOperands⟩
  | .encDestroy => ⟨.host, 0x03, zeroOperands⟩
  | .decCreate => ⟨.host, 0x10, zeroOperands⟩
  | .decFramein len nsamp d => ⟨.host, 0x11, { zeroOperands with len := len, nsamp := nsamp, bytes := d }⟩
  | .decFrameout => ⟨.host, 0x12, zeroOperands⟩
  | .decDestroy => ⟨.host, 0x13, zeroOperands⟩

/-! ## One word of the opcode table -/

/-- The command of a table word: every row is the one command byte, the operands zero; a byte with `I = 1` stands on
the internal dispatch path, the only one that takes it (R61). DESIGN CHOICE, log entry 28. -/
def commandOfWord (w : Nat) : Command :=
  let cmd := BitVec.ofNat 8 w
  ⟨if cmdI cmd then .internal else .host, cmd, zeroOperands⟩

/-- What `decode` reads from a table word; a command is exactly one byte (R56). -/
def decodeTableWord (nbits w : Nat) : Option Instr :=
  if nbits = 8 ∧ w < 256 then
    match decode (commandOfWord w) with
    | .ok i => some i
    | .error _ => none
  else none

end Sys2Proof
end

