-- ==== Sys2Proof/Machine/State.lean ====
section
/-!
DEFINITION. Sys2Proof/Machine/State.lean: one translation context (R17) as plain data, the reasons a step can stop,
and the state after hardware reset (R34, R146).
-/

namespace Sys2Proof.Machine

/-- `life` (R19). -/
inductive Life where
  | uncreated
  | live
  | failed
  | destroyed
  deriving DecidableEq, Repr, Inhabited

/-- `phase`, the state of the Frame-Boundary Driver (R20). -/
inductive Phase where
  | idle
  | accumulating
  | frameReady
  | emitting
  deriving DecidableEq, Repr, Inhabited

/-- The result code of a public operation (R58). -/
inductive Res where
  | ok
  | fail
  deriving DecidableEq, Repr, Inhabited

/-- What the last operation gave back: a public operation its result code (R58), ACC.APPEND its `new_count` (R68),
RPK.ENC and RPK.DEC their frame (R74, R81). -/
inductive Return where
  | code (r : Res)
  | count (n : Nat)
  | frame (f : Frame)
  deriving DecidableEq, Repr, Inhabited

/-- The data of an output frame record (R55): a packed frame, or decoded PCM. -/
inductive FrameData where
  | packed (p : Frame)
  | pcm (samples : List Sample)
  deriving DecidableEq, Repr, Inhabited

/-- One output frame record, tagged with its byte length and its sample count (R55). -/
structure OutFrame where
  data : FrameData
  datalen : Nat
  samples : Nat
  deriving DecidableEq, Repr, Inhabited

/-- A log event; the CORE reports one kind, carrying the status (R122, R129). -/
inductive LogEvent where
  | encodeStatusMismatch (status : Int)
  deriving DecidableEq, Repr, Inhabited

/-- A buffer's contents: (index, element) pairs with indices strictly rising. An index not listed holds an
unspecified value (R31, R34). Log entry 10. -/
abbrev Memory (α : Type) := List (Nat × α)

/-- The external engine as this context meets it: the answers still to come, in order, and the transactions issued
so far, oldest first, which stand for its opaque state (R31(a), R35, R111). Log entry 5. -/
structure EnginePort where
  /-- Answers to create transactions: an id, or `none` for `failure` (R112, R113). -/
  creates : List (Reply (Option Nat))
  /-- Answers to `encode` (R114). -/
  encodes : List (Reply EncodeAnswer)
  /-- Answers to `decode` (R115). -/
  decodes : List (Reply Block)
  /-- Answers to `destroy_encoder` and `destroy_decoder` (R116, R117). -/
  destroys : List (Reply Unit)
  /-- Every transaction issued, oldest first. -/
  calls : List EngineCall
  deriving DecidableEq, Repr, Inhabited

/-- One translation context (R17). -/
structure State where
  /-- `dir`, a constant of the context (R18). -/
  dir : Dir
  /-- `DEC_EMIT_PER_UNIT`, a constant of the context, by default false (R16, R105). -/
  emitPerUnit : Bool
  /-- `life` (R19). -/
  life : Life
  /-- `phase` (R20). -/
  phase : Phase
  /-- `handle` (R22). -/
  handle : Option Handle
  /-- `SB[0 .. 8000)` (R23). -/
  sb : Memory Sample
  /-- `samples` (R24). -/
  samples : Nat
  /-- `datalen`, used in a decode context (R25). -/
  datalen : Nat
  /-- `W[0 .. 32)`, used in a decode context (R26). -/
  w : List Host.Cell
  /-- `OB[0 .. 32)`, used in an encode context (R27). -/
  ob : List Host.Cell
  /-- An operation of this context is running and has not returned (R140, R145, R153). Log entry 6. -/
  busy : Bool
  /-- Commands delivered and not yet started, first one first (R120). The model's own field, log entry 3. -/
  inbox : List Command
  /-- Hardware reset is asserted: an input, which the next step takes before any command (R146). The model's own field,
  log entry 30. -/
  resetLine : Bool
  /-- What the last operation returned; none while an operation is running and after reset (R58). Log entry 18. -/
  ret : Option Return
  /-- The chain of output frames of the running or the last public operation (R38, R118). Log entry 18. -/
  chain : List OutFrame
  /-- The log, oldest event first (R122). -/
  log : List LogEvent
  /-- The engine port (R111). -/
  engine : EnginePort
  /-- Draws made by RPK.ENC so far (R77). The model's own field, log entry 11. -/
  draws : Nat
  /-- How often contents of `SB` became unspecified so far (R31(b), R34). The model's own field, log entry 12. -/
  epoch : Nat
  /-- The same for `OB` and `W` (R34). The model's own field, log entry 12. -/
  stageEpoch : Nat
  deriving DecidableEq, Repr, Inhabited

/-- Why the machine stops with a fault. -/
inductive Fault where
  /-- R130, R36, R37, U2: an access outside a buffer or a delivery, the append that crosses 8000 samples among them.
  Raised by ACC.APPEND, ACC.COMPACT, ENC.FRAMEIN, ENC.FRAMEOUT, DEC.FRAMEIN and DEC.FRAMEOUT where they reach outside.
  Safe: the spec gives the hardware no behaviour there, and the model gives it no value (D24). -/
  | bufferOverrun
  deriving DecidableEq, Repr, Inhabited

/-- Why a step gives an operation no meaning: the refusals of R132. None changes the state, and each is safe: the
spec defines no behaviour of the hardware there and asks a model to refuse. -/
inductive Refusal where
  /-- An instruction of the table that has no meaning yet; raised by no arm of `exec`. -/
  | notModelled (mnemonic : String)
  /-- R62: a byte that is no command on its port. Raised by `step`, when it decodes. -/
  | reservedCommand (cmd : Byte)
  /-- R63: a public operation of the other direction. Raised by the eight public operations. -/
  | wrongDirection
  /-- R98, R108: FRAMEIN or FRAMEOUT outside `Live`. Raised by those four operations. -/
  | notLive
  /-- R98, R108: CREATE outside `Uncreated`. Raised by ENC.CREATE and DEC.CREATE. -/
  | alreadyCreated
  /-- R93(d): ENC.FRAMEIN with `len ≠ 2 × nsamp`. Raised by ENC.FRAMEIN. -/
  | lengthMismatch
  /-- R140: an operation issued while another of this context is running. Raised by every operation. -/
  | reentrant
  deriving DecidableEq, Repr, Inhabited

/-- The engine port before any transaction: the engine state "does not exist" (R34), and no answer is queued. -/
def EnginePort.reset : EnginePort :=
  { creates := [], encodes := [], decodes := [], destroys := [], calls := [] }

/-- A context of direction `d` after hardware reset (R34, R146). -/
def State.resetAs (d : Dir) : State :=
  { dir := d, emitPerUnit := false, life := .uncreated, phase := .idle, handle := none,
    sb := [], samples := 0, datalen := 0, w := [], ob := [], busy := false, inbox := [], resetLine := false,
    ret := none, chain := [], log := [], engine := EnginePort.reset, draws := 0, epoch := 0, stageEpoch := 0 }

/-- The machine right after reset (R34, R146). `dir` is fixed by the instance and R34 gives it no one value: the
model's `reset` is an encode context. DESIGN CHOICE, log entry 2. -/
def State.reset : State := State.resetAs .enc

end Sys2Proof.Machine
end

