-- ==== Sys2Proof/Machine/Ops.lean ====
section
/-!
DEFINITION. Sys2Proof/Machine/Ops.lean: the named operations over memory and state: MemRead and MemWrite (R36, R37),
one update per field, the engine transactions (R111 to R117), emission and log (R118, R122), and the fetch of the
next command.
-/

namespace Sys2Proof.Machine

/-- The three outcomes of a step of this machine. -/
abbrev Outcome := Host.Outcome State Fault Refusal

/-! ## Memory: lists of (index, element) in canonical form -/

/-- The listed element at an index, if there is one. -/
def Memory.find? {α : Type} : Memory α → Nat → Option α
  | [], _ => none
  | (k, v) :: m, i => if k = i then some v else Memory.find? m i

/-- Consecutive elements from an index on, as cells. -/
def Memory.run {α : Type} : Nat → List α → Memory α
  | _, [] => []
  | i, v :: vs => (i, v) :: Memory.run (i + 1) vs

/-- MemWrite (R37): the elements of `vs` at `addr`, `addr + 1`, and so on; everything else stays. -/
def Memory.write {α : Type} (m : Memory α) (addr : Nat) (vs : List α) : Memory α :=
  m.filter (fun c => c.1 < addr) ++ Memory.run addr vs ++ m.filter (fun c => addr + vs.length ≤ c.1)

/-- The canonical form of a space of `size` elements: indices strictly rising from `lo` on and below `size`. -/
def Memory.wfFrom {α : Type} (size : Nat) : Nat → Memory α → Bool
  | _, [] => true
  | lo, (k, _) :: m => decide (lo ≤ k) && decide (k < size) && Memory.wfFrom size (k + 1) m

/-- The canonical form of a space of `size` elements: each listed once, in rising order, inside the space. No listed
element equals what an unlisted one reads as, since that is a free value (log entry 10). -/
def Memory.wf {α : Type} (size : Nat) (m : Memory α) : Bool := Memory.wfFrom size 0 m

/-! ## One read of one element -/

/-- The sample at an index of `SB`: the one written, or the free value of an unspecified element (R31(b)). -/
def State.sampleAt (s : State) (i : Nat) : Sample :=
  (Memory.find? s.sb i).getD (Config.unspecSample s.epoch i)

/-- The byte at an index of `OB`. -/
def State.obAt (s : State) (i : Nat) : Byte :=
  (Memory.find? s.ob i).getD (Config.unspecOb s.stageEpoch i)

/-- The byte at an index of `W`. -/
def State.wAt (s : State) (i : Nat) : Byte :=
  (Memory.find? s.w i).getD (Config.unspecW s.stageEpoch i)

/-! ## One update per field -/

def State.setDir (s : State) (d : Dir) : State := { s with dir := d }

def State.setLife (s : State) (l : Life) : State := { s with life := l }

def State.setPhase (s : State) (p : Phase) : State := { s with phase := p }

def State.setHandle (s : State) (h : Option Handle) : State := { s with handle := h }

def State.setSb (s : State) (m : Memory Sample) : State := { s with sb := m }

def State.setW (s : State) (m : List Host.Cell) : State := { s with w := m }

def State.setOb (s : State) (m : List Host.Cell) : State := { s with ob := m }

def State.setCounts (s : State) (n l : Nat) : State := { s with samples := n, datalen := l }

def State.setInbox (s : State) (q : List Command) : State := { s with inbox := q }

def State.setResetLine (s : State) (b : Bool) : State := { s with resetLine := b }

def State.setEngine (s : State) (e : EnginePort) : State := { s with engine := e }

/-- A public operation begins: nothing is returned yet and its chain is empty (R118). -/
def State.startOp (s : State) : State := { s with ret := none, chain := [] }

/-- The operation returns (R58). -/
def State.finish (s : State) (r : Return) : State := { s with ret := some r }

/-- ACC.COMPACT returns nothing (R71). -/
def State.finishVoid (s : State) : State := { s with ret := none }

/-- The operation waits for an engine that never answers: it stays running and returns nothing (R145, R158). -/
def State.hang (s : State) : State := { s with busy := true, ret := none }

/-- `emit(frame)`: append one record to the chain of the running operation (R118). -/
def State.emit (s : State) (f : OutFrame) : State := { s with chain := s.chain ++ [f] }

/-- One log event (R122). -/
def State.addLog (s : State) (e : LogEvent) : State := { s with log := s.log ++ [e] }

/-- One draw of RPK.ENC has been used (R77). -/
def State.takeDraw (s : State) : State := { s with draws := s.draws + 1 }

/-- Contents of `SB` became unspecified: what its unlisted elements hold is another free value from here on
(R31(b)). -/
def State.nextEpoch (s : State) : State := { s with epoch := s.epoch + 1 }

/-- The samples `SB[a .. a + n)` as they are read. -/
def State.slice (s : State) (a n : Nat) : List Sample := (List.range n).map fun k => s.sampleAt (a + k)

/-- `SB` holds `vs` from index 0 on, and is unspecified above (R31(b)). -/
def State.retain (s : State) (vs : List Sample) : State := (s.setSb (Memory.run 0 vs)).nextEpoch

/-- `SB` where the count becomes `n`: elements at and above the count are unspecified (R23, R31(b), U6), so where the
count falls, what was valid from `n` on becomes so, and below `n` everything stays. -/
def State.dropAbove (s : State) (n : Nat) : State :=
  if n < s.samples then s.retain (s.slice 0 n) else s

/-- All three buffers become unspecified: what their elements hold is another free value from here on (R34: after
CREATE, failed or not, and after DESTROY, "buffers discarded"). -/
def State.discardBuffers (s : State) : State :=
  { s with sb := [], ob := [], w := [], epoch := s.epoch + 1, stageEpoch := s.stageEpoch + 1 }

/-- Hardware reset of a context in any state (R34, R146): Uncreated, Idle, no handle, counters 0, buffers unspecified, no
operation running, and no engine call. The constants of the context, the pending commands, the log and the engine are
outside its reach. Log entry 30. -/
def hardwareReset (s : State) : State :=
  { State.resetAs s.dir with
    emitPerUnit := s.emitPerUnit, inbox := s.inbox, log := s.log, engine := s.engine, draws := s.draws,
    epoch := s.epoch + 1, stageEpoch := s.stageEpoch + 1 }

/-! ## Bounded access to the buffers (R36 to R38) -/

/-- `MemRead(SB, addr, n)`, defined inside the buffer only. -/
def readSb (s : State) (addr n : Nat) : Option (List Sample) :=
  if addr + n ≤ Config.CAP then some (s.slice addr n) else none

/-- `MemWrite(SB, addr, n, v)`, defined inside the buffer only. -/
def writeSb (s : State) (addr : Nat) (vs : List Sample) : Option State :=
  if addr + vs.length ≤ Config.CAP then some (s.setSb (Memory.write s.sb addr vs)) else none

/-- The 32 bytes of `OB`. -/
def readOb (s : State) : Frame := Vector.ofFn fun i : Fin 32 => s.obAt i.val

/-- `OB <- f`. -/
def writeOb (s : State) (f : Frame) : State := s.setOb (Memory.write s.ob 0 f.toList)

/-- The 32 bytes of `W`. -/
def readW (s : State) : Frame := Vector.ofFn fun i : Fin 32 => s.wAt i.val

/-- `W <- f`. -/
def writeW (s : State) (f : Frame) : State := s.setW (Memory.write s.w 0 f.toList)

/-! ## Running one step after another -/

/-- Go on from a next state; a fault or a refusal stays. -/
def andThen (o : Outcome) (k : State → Outcome) : Outcome :=
  match o with
  | .next s => k s
  | .fault r => .fault r
  | .refused r => .refused r

/-- Go on from a next state in which no engine call hangs: while one does, the operation takes no further step
(R145). -/
def unlessHung (o : Outcome) (k : State → Outcome) : Outcome :=
  andThen o fun s => if s.busy then .next s else k s

/-! ## Engine transactions (R111 to R117) -/

/-- The answer to a transaction: the first one queued, else the free value that depends on the whole history. -/
def takeReply {α : Type} (queue : List (Reply α)) (free : List EngineCall → Reply α) (calls : List EngineCall) :
    Reply α × List (Reply α) :=
  match queue with
  | r :: rs => (r, rs)
  | [] => (free calls, [])

/-- The create transaction of a direction (R112, R113). -/
def createCall : Dir → EngineCall
  | .enc => .createEncoder Config.dtxFlag
  | .dec => .createDecoder

/-- The destroy transaction of a direction (R116, R117). -/
def destroyCall : Dir → Handle → EngineCall
  | .enc, h => .destroyEncoder h
  | .dec, h => .destroyDecoder h

/-- `Engine.create_encoder(DTX_FLAG)` or `Engine.create_decoder()`. -/
def engineCreate (d : Dir) (s : State) : Reply (Option Nat) × State :=
  let calls := s.engine.calls ++ [createCall d]
  let r := takeReply s.engine.creates Config.createReply calls
  (r.1, s.setEngine { s.engine with creates := r.2, calls := calls })

/-- `Engine.encode(handle, MODE_SEL, unit, FORCE_FLAG)` (R114). -/
def engineEncode (pcm : List Sample) (s : State) : Reply EncodeAnswer × State :=
  let calls := s.engine.calls ++ [.encode s.handle Config.MODE_SEL pcm Config.forceFlag]
  let r := takeReply s.engine.encodes Config.encodeReply calls
  (r.1, s.setEngine { s.engine with encodes := r.2, calls := calls })

/-- `Engine.decode(handle, t, BFI_GOOD)` (R115). -/
def engineDecode (t : Frame) (s : State) : Reply Block × State :=
  let calls := s.engine.calls ++ [.decode s.handle t Config.bfiGood]
  let r := takeReply s.engine.decodes Config.decodeReply calls
  (r.1, s.setEngine { s.engine with decodes := r.2, calls := calls })

/-- `Engine.destroy_encoder(handle)` or `Engine.destroy_decoder(handle)` (R116, R117). -/
def engineDestroy (d : Dir) (h : Handle) (s : State) : Reply Unit × State :=
  let calls := s.engine.calls ++ [destroyCall d h]
  let r := takeReply s.engine.destroys Config.destroyReply calls
  (r.1, s.setEngine { s.engine with destroys := r.2, calls := calls })

/-! ## The checks before an operation (R135) -/

/-- No second operation on a context while one is running (R140, R153). -/
def unlessRunning (s : State) (k : Outcome) : Outcome :=
  if s.busy then .refused .reentrant else k

/-- A public operation of direction `d`: the direction is checked as part of command decode (R63, R135), then that
no operation is running. -/
def publicOp (d : Dir) (s : State) (k : Outcome) : Outcome :=
  if s.dir ≠ d then .refused .wrongDirection else unlessRunning s k

/-- The life-cycle gate of CREATE (R98, R108). -/
def ifUncreated (s : State) (k : Outcome) : Outcome :=
  if s.life = .uncreated then k else .refused .alreadyCreated

/-- The life-cycle gate of FRAMEIN and FRAMEOUT (R98, R108). -/
def ifLive (s : State) (k : Outcome) : Outcome :=
  if s.life = .live then k else .refused .notLive

/-! ## Errors (R128, R129): what raising each one does -/

/-- `EngineCreateFail` (R128): no handle, `life` is Failed, the operation returns FAIL; nothing is logged. The other
elements stand as R34 gives them after a failed CREATE: Idle, counters 0, buffers unspecified. DEDUCED, log entry 15. -/
def raiseEngineCreateFail (s : State) : State :=
  (((((s.setHandle none).setCounts 0 0).setPhase .idle).setLife .failed).discardBuffers).finish (.code .fail)

/-- `EncodeStatusMismatch(status)` (R129): one log event carrying the status; nothing is emitted. -/
def raiseEncodeStatusMismatch (status : Int) (s : State) : State :=
  s.addLog (.encodeStatusMismatch status)

/-! ## The next command -/

/-- The command the next step runs, and the state without it; none while the host has issued nothing (R147). -/
def fetch (s : State) : Option (Command × State) :=
  match s.inbox with
  | [] => none
  | c :: rest => some (c, s.setInbox rest)

/-- A table word as the next command to be fetched. A public command is one of a context of its own direction (R63):
the word is placed before such a context, with no reset asserted. DESIGN CHOICE, log entry 28. -/
def placeWord (s : State) (w : Nat) : State :=
  let c := commandOfWord w
  let s' := (s.setInbox (c :: s.inbox)).setResetLine false
  if cmdI c.cmd then s' else s'.setDir (cmdD c.cmd)

end Sys2Proof.Machine
end

