-- ==== Sys2Proof/Machine/Operands.lean ====
section
/-!
DEFINITION. Sys2Proof/Machine/Operands.lean: the operand forms: nibbles and the byte of two nibbles (R75), the header
byte (R50), iteration counts (R57), and reading a delivery (R38, R87).
-/

namespace Sys2Proof.Machine

/-- The high nibble, bits 7:4 (spec/00_scope.md section 5). -/
def hi4 (b : Byte) : Nibble := b.extractLsb' 4 4

/-- The low nibble, bits 3:0. -/
def lo4 (b : Byte) : Nibble := b.extractLsb' 0 4

/-- `{a, b}`, the byte with high nibble `a` and low nibble `b` (spec/00_scope.md section 5). -/
def joinNibbles (a b : Nibble) : Byte := a ++ b

/-- `(a << 4) | (b >> 4)` with an 8-bit result (R75). -/
def packByte (a b : Byte) : Byte := (a <<< 4) ||| (b >>> 4)

/-- `(a << 4) | g` with an 8-bit result (R74, R77). -/
def packTail (a : Byte) (g : Nibble) : Byte := (a <<< 4) ||| g.setWidth 8

/-- The synthesised header byte, `(7 << 3) | 0x04` (R50, R83). -/
def headerByte : Byte := (BitVec.ofNat 8 Config.MODE_SEL <<< 3) ||| Config.Q_SET

/-- `floor(samples / 160)` (R57, R94). -/
def unitCount (samples : Nat) : Nat := samples / Config.UNIT

/-- `floor(len / 31)` (R57, R87). -/
def strideCount (len : Nat) : Nat := len / Config.PSTRIDE

/-- `data[0 .. n)` of a PCM delivery, defined only where the delivery holds `n` samples (R36, R38). -/
def readPcm (data : List Sample) (n : Nat) : Option (List Sample) :=
  if n ≤ data.length then some (data.take n) else none

/-- `IN[x .. x + 31)` of a packed delivery, defined only where the delivery holds those bytes (R36, R38, R87). -/
def readStride (data : List Byte) (x : Nat) : Option Stride :=
  if x + Config.PSTRIDE ≤ data.length then some (Vector.ofFn fun i : Fin 31 => data.getD (x + i.val) 0) else none

end Sys2Proof.Machine
end

