-- ==== Sys2Proof/Machine/Accumulator.lean ====
section
/-!
DEFINITION. Sys2Proof/Machine/Accumulator.lean: the Sample Accumulator, ACC.APPEND and ACC.COMPACT
(spec/40_accumulator.md R67 to R73).
-/

namespace Sys2Proof.Machine

/-- What `datalen` becomes when `n` samples are appended: in a decode context two bytes a sample more (R73, R102);
an encode context has no byte counter (R25). DEDUCED, log entry 9. -/
def appendedDatalen (s : State) (n : Nat) : Nat :=
  match s.dir with
  | .enc => s.datalen
  | .dec => s.datalen + 2 * n

/-- `ACC.APPEND existing, data` (R68): the data at `SB[existing ..)`, then `samples <- existing + n`; elements at and above
the new count are unspecified (R23, R31(b)). Beyond the capacity it has no next state (R70, R130). The driver has
`existing = samples` (R59); for a larger one see log entry 31. -/
def append (existing : Nat) (data : List Sample) (s : State) : Outcome :=
  match writeSb s existing data with
  | none => .fault .bufferOverrun
  | some s' =>
    .next ((s'.dropAbove (existing + data.length)).setCounts (existing + data.length) (appendedDatalen s data.length))

/-- `ACC.COMPACT consumed, remaining` (R71): all reads first, then the writes (R37, R72(c)), which the same bound admits;
what stands at and above `remaining` is unspecified afterwards. -/
def compact (consumed remaining : Nat) (s : State) : Outcome :=
  match readSb s consumed remaining with
  | none => .fault .bufferOverrun
  | some v => .next ((s.retain v).setCounts remaining s.datalen)

/-- ACC.APPEND as a command of the internal dispatch path; it returns `new_count` (R68). -/
def execAccAppend (existing : Nat) (data : List Sample) (s : State) : Outcome :=
  unlessRunning s (andThen (append existing data s) fun s' => .next (s'.finish (.count s'.samples)))

/-- ACC.COMPACT as a command of the internal dispatch path (R71). -/
def execAccCompact (consumed remaining : Nat) (s : State) : Outcome :=
  unlessRunning s (andThen (compact consumed remaining s) fun s' => .next s'.finishVoid)

end Sys2Proof.Machine
end

