-- ==== Sys2Proof/Machine/Repacker.lean ====
section
/-!
DEFINITION. Sys2Proof/Machine/Repacker.lean: the two Bit Repackers, RPK.ENC (spec/41_repack_encode.md R74 to R80) and
RPK.DEC (spec/42_repack_decode.md R81 to R86).
-/

namespace Sys2Proof.Machine

/-- The packed frame of a storage frame and a draw (R74): byte `i` is `(s[i] << 4) | (s[i+1] >> 4)` for `i` in
`0 .. 30` (R76, conflict C2), and byte 31 is `(s[31] << 4) | g` (R77). -/
def packFrame (s : Frame) (g : Nibble) : Frame :=
  Vector.ofFn fun i : Fin 32 =>
    if h : i.val + 1 < 32 then packByte s[i.val] s[i.val + 1] else packTail s[i.val] g

/-- The storage frame of a stride (R81): the header (R83), `(q[i-1] << 4) | (q[i] >> 4)` for `i` in `1 .. 30` (R84),
and `q[30] << 4` (R85, conflict C3). -/
def unpackFrame (q : Stride) : Frame :=
  Vector.ofFn fun i : Fin 32 =>
    if i.val = 0 then headerByte
    else if h : i.val < 31 then packByte (q[i.val - 1]'(by omega)) q[i.val]
    else q[30] <<< 4

/-- RPK.ENC over the state: one fresh draw (R77), the packed frame in `OB` (R74). -/
def repackEncode (f : Frame) (s : State) : Frame × State :=
  let p := packFrame f (Config.drawNibble s.draws)
  (p, (writeOb s p).takeDraw)

/-- RPK.DEC over the state: `W` is set to zero (R82), then holds the storage frame (R81). -/
def repackDecode (q : Stride) (s : State) : Frame × State :=
  let t := unpackFrame q
  (t, writeW (writeW s (Vector.replicate 32 0)) t)

/-- RPK.ENC as a command of the internal dispatch path; it returns `p` (R74). -/
def execRpkEnc (f : Frame) (s : State) : Outcome :=
  unlessRunning s (.next ((repackEncode f s).2.finish (.frame (repackEncode f s).1)))

/-- RPK.DEC as a command of the internal dispatch path; it returns `t` (R81). -/
def execRpkDec (q : Stride) (s : State) : Outcome :=
  unlessRunning s (.next ((repackDecode q s).2.finish (.frame (repackDecode q s).1)))

end Sys2Proof.Machine
end

