-- ==== Sys2Proof/Machine/Driver.lean ====
section
/-!
DEFINITION. Sys2Proof/Machine/Driver.lean: what the Frame-Boundary Driver does alike in both directions: creation
(R90, R100) and destruction (R96, R107) of a context.
-/

namespace Sys2Proof.Machine

/-- After the engine's answer to the create transaction (R90, R100): Live with the handle and empty counters, or
`EngineCreateFail`; a silent engine leaves the operation running (R145). -/
def created (d : Dir) (r : Reply (Option Nat)) (s : State) : State :=
  match r with
  | .silent => s.hang
  | .answer none => raiseEngineCreateFail s
  | .answer (some id) =>
    (((((s.setHandle (some ⟨d, id⟩)).setCounts 0 0).setPhase .idle).setLife .live).discardBuffers).finish (.code .ok)

/-- CREATE of a direction (R90, R100): defined in Uncreated only (R98, R108). -/
def create (d : Dir) (s : State) : Outcome :=
  publicOp d s (ifUncreated s
    (.next (created d (engineCreate d s.startOp).1 (engineCreate d s.startOp).2)))

/-- The rest of DESTROY, once no handle is held (R96, R107): counters 0, Destroyed, the buffers discarded (R34). -/
def discarded (s : State) : State :=
  ((((s.setHandle none).setCounts 0 0).setLife .destroyed).discardBuffers).finish (.code .ok)

/-- After the engine's return from the destroy transaction; a silent engine leaves the operation running (R158). -/
def destroyed (r : Reply Unit) (s : State) : State :=
  match r with
  | .silent => s.hang
  | .answer _ => discarded s

/-- DESTROY of a direction (R96, R107): legal in every life; the engine is called only while a handle is held (R97). -/
def destroy (d : Dir) (s : State) : Outcome :=
  publicOp d s
    (match s.handle with
    | none => .next (discarded s.startOp)
    | some h => .next (destroyed (engineDestroy d h s.startOp).1 (engineDestroy d h s.startOp).2))

end Sys2Proof.Machine
end

