-- ==== Sys2Proof/Machine/DecodeDriver.lean ====
section
/-!
DEFINITION. Sys2Proof/Machine/DecodeDriver.lean: the public operations of a decode context
(spec/44_driver_decode.md R100 to R109) and the stride loop (spec/42_repack_decode.md R87, R88).
-/

namespace Sys2Proof.Machine

/-- DEC.CREATE (R100). -/
def execDecCreate (s : State) : Outcome := create .dec s

/-- What one stride's engine answer does (R102): its 160 samples are appended, `datalen` grows by 320 (R73). -/
def decodeAnswered (r : Reply Block) (s : State) : Outcome :=
  match r with
  | .silent => .next s.hang
  | .answer pcm => andThen (append s.samples pcm.toList s) fun s' => .next (s'.setPhase .accumulating)

/-- One iteration of DEC.FRAMEIN's loop (R102): the stride `IN[x .. x + 31)` through RPK.DEC and the engine. -/
def decodeStride (data : List Byte) (x : Nat) (s : State) : Outcome :=
  match readStride data x with
  | none => .fault .bufferOverrun
  | some q =>
    let s₁ := (repackDecode q s).2
    let r := engineDecode (readW s₁) (s₁.setPhase .frameReady)
    decodeAnswered r.1 r.2

/-- The loop of DEC.FRAMEIN (R87, R102): `m` strides from byte `x` on, in order. -/
def decodeStrides (data : List Byte) : Nat → Nat → State → Outcome
  | 0, _, s => .next s
  | m + 1, x, s => unlessHung (decodeStride data x s) fun s' => decodeStrides data m (x + Config.PSTRIDE) s'

/-- DEC.FRAMEIN (R102): `floor(len / 31)` strides; the trailing bytes are dropped (R88); `nsamp` is not used. -/
def execDecFramein (len _nsamp : BitVec 16) (data : List Byte) (s : State) : Outcome :=
  publicOp .dec s (ifLive s
    (unlessHung (decodeStrides data (strideCount len.toNat) 0 s.startOp) fun s' =>
      .next ((s'.setPhase .accumulating).finish (.code .ok))))

/-- The records DEC.FRAMEOUT emits for the samples `v` (R105): one record with `datalen`, or with
`DEC_EMIT_PER_UNIT` one record of 160 samples for every unit, in order. -/
def pcmRecords (perUnit : Bool) (datalen : Nat) (v : List Sample) : List OutFrame :=
  if perUnit then
    (List.range (unitCount v.length)).map fun j =>
      { data := .pcm ((v.drop (Config.UNIT * j)).take Config.UNIT), datalen := Config.UNIT_BYTES, samples := Config.UNIT }
  else [{ data := .pcm v, datalen := datalen, samples := v.length }]

/-- Records emitted one after another (R118). -/
def emitAll (fs : List OutFrame) (s : State) : State := fs.foldl State.emit s

/-- DEC.FRAMEOUT (R105): everything accumulated is handed over and both counters are cleared; with nothing
accumulated, nothing changes but the return (R106(a)). -/
def execDecFrameout (s : State) : Outcome :=
  publicOp .dec s (ifLive s
    (if s.samples = 0 then .next (s.startOp.finish (.code .ok))
    else
      match readSb s 0 s.samples with
      | none => .fault .bufferOverrun
      | some v =>
        let s₁ := emitAll (pcmRecords s.emitPerUnit s.datalen v) (s.startOp.setPhase .emitting)
        andThen (compact s.samples 0 s₁) fun s₂ =>
          .next (((s₂.setCounts s₂.samples 0).setPhase .accumulating).finish (.code .ok))))

/-- DEC.DESTROY (R107). -/
def execDecDestroy (s : State) : Outcome := destroy .dec s

end Sys2Proof.Machine
end

