-- ==== Sys2Proof/Machine/EncodeDriver.lean ====
section
/-!
DEFINITION. Sys2Proof/Machine/EncodeDriver.lean: the public operations of an encode context
(spec/43_driver_encode.md R90 to R99).
-/

namespace Sys2Proof.Machine

/-- ENC.CREATE (R90). -/
def execEncCreate (s : State) : Outcome := create .enc s

/-- ENC.FRAMEIN (R92): `ACC.APPEND samples, data[0 .. nsamp)`, then Accumulating. A delivery whose `len` is not
`2 × nsamp` is refused (R93(d)). -/
def execEncFramein (len nsamp : BitVec 16) (data : List Sample) (s : State) : Outcome :=
  publicOp .enc s (ifLive s
    (if len.toNat = 2 * nsamp.toNat then
      match readPcm data nsamp.toNat with
      | none => .fault .bufferOverrun
      | some d =>
        andThen (append s.samples d s.startOp) fun s' => .next ((s'.setPhase .accumulating).finish (.code .ok))
    else .refused .lengthMismatch))

/-- One unit's success (R94): `OB` takes the engine's frame, RPK.ENC packs it, the packed frame is emitted. -/
def emitUnit (payload : Frame) (s : State) : State :=
  let s₁ := writeOb (s.setPhase .emitting) payload
  let r := repackEncode (readOb s₁) s₁
  r.2.emit { data := .packed r.1, datalen := Config.PFRAME_LEN, samples := Config.UNIT }

/-- What one unit's engine answer does (R94): emission on status 32, else the log event of R129. -/
def encodeAnswered (r : Reply EncodeAnswer) (s : State) : State :=
  match r with
  | .silent => s.hang
  | .answer a =>
    if a.status = Config.ENC_OK then (emitUnit a.payload s).setPhase .accumulating
    else (raiseEncodeStatusMismatch a.status s).setPhase .accumulating

/-- One iteration of ENC.FRAMEOUT's loop (R94): the unit `SB[consumed .. consumed + 160)` through the engine. -/
def encodeUnit (consumed : Nat) (s : State) : Outcome :=
  match readSb s consumed Config.UNIT with
  | none => .fault .bufferOverrun
  | some unit =>
    let r := engineEncode unit (s.setPhase .frameReady)
    .next (encodeAnswered r.1 r.2)

/-- The loop of ENC.FRAMEOUT (R94): `n` units from `consumed` on, in order. -/
def encodeUnits : Nat → Nat → State → Outcome
  | 0, _, s => .next s
  | n + 1, consumed, s => unlessHung (encodeUnit consumed s) fun s' => encodeUnits n (consumed + Config.UNIT) s'

/-- ENC.FRAMEOUT (R94): `floor(samples / 160)` units, then the leftover to the front. -/
def execEncFrameout (s : State) : Outcome :=
  publicOp .enc s (ifLive s
    (unlessHung (encodeUnits (unitCount s.samples) 0 s.startOp) fun s' =>
      andThen (compact (Config.UNIT * unitCount s.samples) (s.samples - Config.UNIT * unitCount s.samples) s') fun s'' =>
        .next (s''.finish (.code .ok))))

/-- ENC.DESTROY (R96). -/
def execEncDestroy (s : State) : Outcome := destroy .enc s

end Sys2Proof.Machine
end

