-- ==== Sys2Proof/Machine/Flags.lean ====
section
/-!
DEFINITION. Sys2Proof/Machine/Flags.lean: the CORE has no flags and no operation has a flag side effect (R29); what
it has is the status a host can observe, numbered in R133.
-/

namespace Sys2Proof.Machine

/-- The code of a result: the only ones on the hardware's result port (R58, R133). -/
def Res.number : Res → Nat
  | .ok => 0
  | .fail => 1

/-- The code of a log event (R133). -/
def LogEvent.number : LogEvent → Nat
  | .encodeStatusMismatch _ => 2

/-- The code of a model fault (R133). -/
def Fault.number : Fault → Nat
  | .bufferOverrun => 3

/-- The code of a model refusal (R133); an operation without a meaning would have none. -/
def Refusal.number : Refusal → Option Nat
  | .reservedCommand _ => some 4
  | .wrongDirection => some 5
  | .notLive => some 6
  | .alreadyCreated => some 7
  | .lengthMismatch => some 8
  | .reentrant => some 9
  | _ => none

/-- The result code the host sees on the result port: none while no public operation has returned (R58, R145). -/
def State.result (s : State) : Option Res :=
  match s.ret with
  | some (.code r) => some r
  | _ => none

end Sys2Proof.Machine
end

