-- ==== Sys2Proof/Machine/Dispatch.lean ====
section
/-!
DEFINITION. Sys2Proof/Machine/Dispatch.lean: one arm per operation of spec/opcode_table.json.
-/

namespace Sys2Proof.Machine

-- One arm per constructor of Instr, each a direct call of its own meaning.
def exec (i : Instr) (s : State) : Host.Outcome State Fault Refusal :=
  match i with
  | .accAppend existingCount newData => Sys2Proof.Machine.execAccAppend existingCount newData s
  | .accCompact consumedCount remainingCount => Sys2Proof.Machine.execAccCompact consumedCount remainingCount s
  | .rpkEnc f => Sys2Proof.Machine.execRpkEnc f s
  | .rpkDec q => Sys2Proof.Machine.execRpkDec q s
  | .encCreate => Sys2Proof.Machine.execEncCreate s
  | .encFramein len nsamp data => Sys2Proof.Machine.execEncFramein len nsamp data s
  | .encFrameout => Sys2Proof.Machine.execEncFrameout s
  | .encDestroy => Sys2Proof.Machine.execEncDestroy s
  | .decCreate => Sys2Proof.Machine.execDecCreate s
  | .decFramein len nsamp data => Sys2Proof.Machine.execDecFramein len nsamp data s
  | .decFrameout => Sys2Proof.Machine.execDecFrameout s
  | .decDestroy => Sys2Proof.Machine.execDecDestroy s

end Sys2Proof.Machine
end

