-- ==== Sys2Proof/Machine/Step.lean ====
section
/-!
DEFINITION. Sys2Proof/Machine/Step.lean: one step is one operation, run to completion (R44, R99): the next command is
fetched, decoded and executed.
-/

namespace Sys2Proof.Machine

/-- One step. A hardware reset that is asserted comes first (R146, log entry 30). With no command issued the CORE waits
(R147): the state stays as it is. A byte that is no command is refused (R62). -/
def step (s : State) : Host.Outcome State Fault Refusal :=
  if s.resetLine then .next (hardwareReset s)
  else
    match fetch s with
    | none => .next s
    | some (c, s') =>
      match decode c with
      | .error (.reservedCommand cmd) => .refused (.reservedCommand cmd)
      | .ok i => exec i s'

/-- The state whose next step runs a table word (log entry 28); every row is one byte. -/
def State.withFetchWord (s : State) (_nbits w : Nat) : State := placeWord s w

end Sys2Proof.Machine
end

