-- ==== Sys2Proof/Safety.lean ====
section
/-!
DEFINITION. Sys2Proof/Safety.lean: what counts as a safe run, in the terms the statements use: the canonical form of
the buffers, the invariants of R33 and R22, the host's capacity contract (R152), the premise that the engine answers
(R145, D25), and what a whole ENC.FRAMEOUT or DEC.FRAMEIN is to produce, written over the lists of its units.
-/

namespace Sys2Proof.Machine

/-! ## Invariants -/

/-- Every buffer in canonical form, the counter inside the capacity (R33(a), R38). -/
abbrev State.Canonical (s : State) : Prop :=
  Memory.wf Config.CAP s.sb = true ∧ Memory.wf Config.PFRAME_LEN s.ob = true ∧
    Memory.wf Config.SFRAME_LEN s.w = true ∧ s.samples ≤ Config.CAP

/-- Only elements below the counter are known; each at or above it reads as a free value (R23, R31(b), U6). -/
abbrev State.KnownBelowCount (s : State) : Prop := ∀ c ∈ s.sb, c.1 < s.samples

/-- The invariants of R33, R20 and R22 at an operation boundary, for a context to which only the host issues
commands: the micro-operations are the driver's alone (R61). -/
structure State.Boundary (s : State) : Prop where
  /-- The host port is the only source of pending commands. -/
  hostOnly : ∀ c ∈ s.inbox, c.port = .host
  /-- R33(a). -/
  capacity : s.samples ≤ Config.CAP
  /-- R33(b): the valid samples are exactly `SB[0 .. samples)`. -/
  valid : s.sb.map Prod.fst = List.range s.samples
  /-- R33(d). -/
  wholeUnits : s.dir = .dec → s.samples % Config.UNIT = 0 ∧ s.datalen = 2 * s.samples
  /-- R33(e), R22. -/
  handleLive : s.handle.isSome = true ↔ s.life = .live
  /-- R22, R161: the handle is one of the context's own kind. -/
  handleKind : ∀ h, s.handle = some h → h.kind = s.dir
  /-- R20: between operations `phase` is Idle or Accumulating. -/
  phaseRest : s.busy = false → s.phase = .idle ∨ s.phase = .accumulating
  /-- R20, R33: Idle is "freshly created, zero accumulated samples". -/
  idleEmpty : s.phase = .idle → s.samples = 0
  /-- R34: outside Live nothing is accumulated. -/
  deadEmpty : s.life ≠ .live → s.samples = 0

/-- A create transaction (R112, R113). -/
def isCreateCall : EngineCall → Bool
  | .createEncoder _ => true
  | .createDecoder => true
  | _ => false

/-- A destroy transaction (R116, R117). -/
def isDestroyCall : EngineCall → Bool
  | .destroyEncoder _ => true
  | .destroyDecoder _ => true
  | _ => false

/-- Create transactions issued so far. -/
def State.createCount (s : State) : Nat := s.engine.calls.countP isCreateCall

/-- Destroy transactions issued so far. -/
def State.destroyCount (s : State) : Nat := s.engine.calls.countP isDestroyCall

/-- R22, R97, R151: one creation and at most one destruction of the engine over the life of a context. -/
structure State.OneLifetime (s : State) : Prop where
  oneCreate : s.createCount ≤ 1
  oneDestroy : s.destroyCount ≤ 1
  notYetCreated : s.life = .uncreated → s.busy = false → s.createCount = 0
  notYetDestroyed : s.life = .uncreated → s.destroyCount = 0
  heldUndestroyed : s.handle.isSome = true → s.busy = false → s.destroyCount = 0
  handleLive : s.handle.isSome = true ↔ s.life = .live

/-- What every transaction the CORE issues carries: an encode call 160 samples and the fixed mode (R114), a decode
call a frame with the synthesised header and a zero low nibble at its end (R104(b), R104(c)). -/
def callFormed : EngineCall → Prop
  | .encode _ mode pcm _ => mode = Config.MODE_SEL ∧ pcm.length = Config.UNIT
  | .decode _ t _ => t[0] = 0x3C ∧ lo4 t[31] = 0
  | _ => True

/-! ## The contract of the host and of the engine -/

/-- The capacity contract (R152), operation by operation, and for the two accumulator operations the bound of R36 and
R70: with it no operation overruns a buffer. A delivery holds the data its count says (R54). -/
def withinCapacity (i : Instr) (s : State) : Prop :=
  match i with
  | .accAppend n d => n + d.length ≤ Config.CAP
  | .accCompact c r => c + r ≤ Config.CAP
  | .encFramein _ nsamp d => d.length = nsamp.toNat ∧ s.samples + nsamp.toNat ≤ Config.CAP
  | .decFramein len _ d => d.length = len.toNat ∧ s.samples + Config.UNIT * strideCount len.toNat ≤ Config.CAP
  | _ => s.samples ≤ Config.CAP

/-- The direction of a public operation, its `D` bit (R56, R63); a micro-operation is no public operation. -/
def publicDir : Instr → Option Dir
  | .encCreate => some .enc
  | .encFramein _ _ _ => some .enc
  | .encFrameout => some .enc
  | .encDestroy => some .enc
  | .decCreate => some .dec
  | .decFramein _ _ _ => some .dec
  | .decFrameout => some .dec
  | .decDestroy => some .dec
  | .accAppend _ _ => none
  | .accCompact _ _ => none
  | .rpkEnc _ => none
  | .rpkDec _ => none

/-- A public operation (R56, `I = 0`). -/
def isPublic (i : Instr) : Bool := (publicDir i).isSome

/-- The transaction is answered. -/
def isAnswer {α : Type} : Reply α → Bool
  | .answer _ => true
  | .silent => false

/-- `EngineResponds` (R145, D25) for one operation: every transaction it can issue finds an answer queued. -/
def engineResponds (i : Instr) (s : State) : Bool :=
  let e := s.engine
  match i with
  | .encCreate => decide (1 ≤ e.creates.length) && e.creates.all isAnswer
  | .decCreate => decide (1 ≤ e.creates.length) && e.creates.all isAnswer
  | .encFrameout => decide (unitCount s.samples ≤ e.encodes.length) && e.encodes.all isAnswer
  | .decFramein len _ _ => decide (strideCount len.toNat ≤ e.decodes.length) && e.decodes.all isAnswer
  | .encDestroy => decide (1 ≤ e.destroys.length) && e.destroys.all isAnswer
  | .decDestroy => decide (1 ≤ e.destroys.length) && e.destroys.all isAnswer
  | _ => true

/-! ## What the two loops are to produce -/

/-- Unit `k` of an ENC.FRAMEOUT, `SB[160k .. 160k + 160)` (R41(a)). -/
def State.unit (s : State) (k : Nat) : List Sample := s.slice (Config.UNIT * k) Config.UNIT

/-- The output frame of a packed frame (R55). -/
def packedRecord (p : Frame) : OutFrame :=
  { data := .packed p, datalen := Config.PFRAME_LEN, samples := Config.UNIT }

/-- The frames ENC.FRAMEOUT emits for its units' engine answers, in order (R94): one for each answer of status 32,
each with a draw of its own, from draw number `d` on. -/
def framesFor : List EncodeAnswer → Nat → List OutFrame
  | [], _ => []
  | a :: as, d =>
    if a.status = Config.ENC_OK then
      packedRecord (packFrame a.payload (Config.drawNibble d)) :: framesFor as (d + 1)
    else framesFor as d

/-- The log events for the same answers (R129): one for each status that is not 32, in order. -/
def mismatchesFor (as : List EncodeAnswer) : List LogEvent :=
  (as.filter fun a => decide (a.status ≠ Config.ENC_OK)).map fun a => .encodeStatusMismatch a.status

/-- How many of the answers are a success. -/
def successCount (as : List EncodeAnswer) : Nat :=
  as.countP fun a => decide (a.status = Config.ENC_OK)

/-- Stride `k` of a packed delivery, `IN[31k .. 31k + 31)` (R87). -/
def strideOf (data : List Byte) (k : Nat) : Stride :=
  Vector.ofFn fun i : Fin 31 => data.getD (Config.PSTRIDE * k + i.val) 0

/-- A frame of `n` bytes as a number, the first byte most significant (spec/00_scope.md section 5). -/
def frameNumber {n : Nat} (f : Vector Byte n) : Nat := f.toList.foldl (fun a b => 256 * a + b.toNat) 0

/-! ## What stays -/

/-- Every element of `SB` reads as before. -/
abbrev SameSb (s t : State) : Prop := ∀ i, t.sampleAt i = s.sampleAt i

/-- Every byte of `OB` reads as before. -/
abbrev SameOb (s t : State) : Prop := ∀ i, t.obAt i = s.obAt i

/-- Every byte of `W` reads as before. -/
abbrev SameW (s t : State) : Prop := ∀ i, t.wAt i = s.wAt i

/-- The constants of the context, what the host still has pending, and that no operation is left running. -/
abbrev SameContext (s t : State) : Prop :=
  t.dir = s.dir ∧ t.emitPerUnit = s.emitPerUnit ∧ t.inbox = s.inbox ∧ t.resetLine = s.resetLine ∧
    t.busy = s.busy

/-- An operation of `s` that waits in `t` for the engine (R145): running, nothing returned; the constants, what the host
has pending, life and handle as they were, and both counters, unless `n` more samples have been appended. -/
structure Waiting (s t : State) (n : Nat) : Prop where
  running : t.busy = true
  unreturned : t.ret = none
  dir : t.dir = s.dir
  emitPerUnit : t.emitPerUnit = s.emitPerUnit
  inbox : t.inbox = s.inbox
  resetLine : t.resetLine = s.resetLine
  life : t.life = s.life
  handle : t.handle = s.handle
  samples : t.samples = s.samples + n
  datalen : t.datalen = s.datalen + 2 * n

/-- Life, phase and handle. -/
abbrev SameLife (s t : State) : Prop := t.life = s.life ∧ t.phase = s.phase ∧ t.handle = s.handle

end Sys2Proof.Machine
end

