-- ==== Sys2Proof/Certificates/Slice0/Obligations.lean ====
section
/-!
DEFINITION. Sys2Proof/Certificates/Slice0/Obligations.lean: the statements about the machine, from the numbered rules
of spec/. Each docstring names the rule or the section it formalises.
-/

open Sys2Proof Sys2Proof.Machine

/-! ## Encoding -/

/-- spec/30_encoding.md section 2 (the table of R60): seven command bytes written out from the table's bits decode to
the operations they stand for, and `0x04` to none. The operands of zero and the path are the model's placing, log
entry 28. -/
def Obligations.TableBytesDecode : Prop :=
  decodeTableWord 8 0b10000000 = some (.accAppend 0 []) ∧
  decodeTableWord 8 0b10010000 = some (.accAppend 0 []) ∧
  decodeTableWord 8 0b10010001 = some (.accCompact 0 0) ∧
  decodeTableWord 8 0b10000010 = some (.rpkEnc (Vector.replicate 32 0)) ∧
  decodeTableWord 8 0b10010010 = some (.rpkDec (Vector.replicate 31 0)) ∧
  decodeTableWord 8 0b00000001 = some (.encFramein 0 0 []) ∧
  decodeTableWord 8 0b00010010 = some .decFrameout ∧
  decodeTableWord 8 0b00000100 = none

/-- R62: a command byte outside R60's 14, or on the host port any byte with bit 7 set, is refused as reserved,
whatever its operands and whatever the state (no reset asserted); every other command decodes. -/
def Obligations.ReservedBytesRefused : Prop :=
  ∀ (port : Port) (cmd : Byte) (args : Operands),
    if cmd.toNat ∈ [0x00, 0x01, 0x02, 0x03, 0x10, 0x11, 0x12, 0x13, 0x80, 0x90, 0x81, 0x91, 0x82, 0x92] ∧
        ¬ (port = .host ∧ cmd.getLsbD 7 = true) then
      ∃ i, decode ⟨port, cmd, args⟩ = .ok i
    else
      ∀ (s : State) (rest : List Command), s.resetLine = false → s.inbox = ⟨port, cmd, args⟩ :: rest →
        step s = .refused (.reservedCommand cmd)

/-- spec/30_encoding.md sections 2 and 3: every operation whose delivery is well formed comes back from its command,
with every operand. -/
def Obligations.DecodeEncodeAgree : Prop :=
  ∀ i : Instr, i.wellFormed = true → decode (encode i) = .ok i

/-- spec/70_reset_and_hazards.md section 1 and spec/20_memory.md section 7: with a command pending and no
reset asserted, a step takes it from the inbox and runs the operation it decodes to; with none, the CORE waits. -/
def Obligations.StepRunsDecodedOperation : Prop :=
  (∀ (s : State) (c : Command) (rest : List Command) (i : Instr), s.resetLine = false → s.inbox = c :: rest →
    decode c = .ok i → step s = exec i (s.setInbox rest)) ∧
  (∀ s : State, s.resetLine = false → s.inbox = [] → step s = .next s)

/-- The model's own placing of a table word (log entry 28): the next step runs the operation the word decodes to, in
a context of the command's direction. -/
def Obligations.PlacedWordRuns : Prop :=
  ∀ (s : State) (w : Nat) (i : Instr), decodeTableWord 8 w = some i →
    step (s.withFetchWord 8 w) =
      exec i ((if cmdI (BitVec.ofNat 8 w) then s else s.setDir (cmdD (BitVec.ofNat 8 w))).setResetLine false)

/-! ## The two repackers -/

/-- R76, R77: RPK.ENC completes whenever no operation is running; bytes 0 to 30 of the frame it returns join the low
nibble of one byte with the high nibble of the next, and byte 31 joins the last low nibble with a fresh draw. -/
def Obligations.PackedFrameBytes : Prop :=
  ∀ (f : Frame) (s : State), s.busy = false →
    ∃ t p, exec (.rpkEnc f) s = .next t ∧ t.ret = some (.frame p) ∧
      (∀ (i : Nat) (h : i < 31), p[i] = joinNibbles (lo4 f[i]) (hi4 f[i + 1])) ∧
      p[31] = joinNibbles (lo4 f[31]) (Config.drawNibble s.draws) ∧
      t.draws = s.draws + 1

/-- spec/41_repack_encode.md (RPK.ENC: reads, writes): the packed frame stands in `OB`; everything else is as it
was. -/
def Obligations.RepackEncodeFrame : Prop :=
  ∀ (f : Frame) (s : State), s.busy = false →
    ∃ t p, exec (.rpkEnc f) s = .next t ∧ t.ret = some (.frame p) ∧
      (∀ (i : Nat) (h : i < 32), t.obAt i = p[i]) ∧ (∀ i, 32 ≤ i → t.obAt i = s.obAt i) ∧
      SameSb s t ∧ SameW s t ∧ SameLife s t ∧ SameContext s t ∧
      t.samples = s.samples ∧ t.datalen = s.datalen ∧ t.chain = s.chain ∧ t.log = s.log ∧ t.engine = s.engine

/-- R83, R84, R85: RPK.DEC completes whenever no operation is running; the frame it returns begins with `0x3C`,
its bytes 1 to 30 join neighbouring nibbles of the stride, and its last byte is the last low nibble over zero. -/
def Obligations.StorageFrameBytes : Prop :=
  ∀ (q : Stride) (s : State), s.busy = false →
    ∃ t f, exec (.rpkDec q) s = .next t ∧ t.ret = some (.frame f) ∧
      f[0] = 0x3C ∧
      (∀ (i : Nat) (_ : 1 ≤ i) (_ : i < 31), f[i] = joinNibbles (lo4 q[i - 1]) (hi4 q[i])) ∧
      f[31] = joinNibbles (lo4 q[30]) 0

/-- spec/42_repack_decode.md (RPK.DEC: reads, writes; R82): the storage frame stands in `W`, whatever `W` held before;
everything else is as it was. -/
def Obligations.RepackDecodeFrame : Prop :=
  ∀ (q : Stride) (s : State), s.busy = false →
    ∃ t f, exec (.rpkDec q) s = .next t ∧ t.ret = some (.frame f) ∧
      (∀ (i : Nat) (h : i < 32), t.wAt i = f[i]) ∧ (∀ i, 32 ≤ i → t.wAt i = s.wAt i) ∧
      SameSb s t ∧ SameOb s t ∧ SameLife s t ∧ SameContext s t ∧
      t.samples = s.samples ∧ t.datalen = s.datalen ∧ t.chain = s.chain ∧ t.log = s.log ∧ t.engine = s.engine ∧
      t.draws = s.draws

/-- R89, both laws: a storage frame packed with any draw and unpacked comes back with the header `0x3C` and a zero
pad nibble, every payload bit kept; a stride unpacked and packed comes back with its first nibble forced to `0xC`. -/
def Obligations.RepackRoundTrips : Prop :=
  (∀ (s : Frame) (g : Nibble) (q : Stride), (∀ (i : Nat) (h : i < 31), q[i] = (packFrame s g)[i]) →
    (unpackFrame q)[0] = 0x3C ∧ (∀ (i : Nat) (_ : 1 ≤ i) (_ : i < 31), (unpackFrame q)[i] = s[i]) ∧
      (unpackFrame q)[31] = joinNibbles (hi4 s[31]) 0) ∧
  (∀ (q : Stride) (g : Nibble),
    (packFrame (unpackFrame q) g)[0] = joinNibbles 0xC (lo4 q[0]) ∧
      (∀ (i : Nat) (_ : 1 ≤ i) (_ : i < 31), (packFrame (unpackFrame q) g)[i] = q[i]) ∧
      (packFrame (unpackFrame q) g)[31] = joinNibbles 0 g)

/-- spec/30_encoding.md section 1, the packed frame as a number: it is the storage frame shifted left by one nibble
inside 256 bits, plus the draw. -/
def Obligations.PackedFrameAsNumber : Prop :=
  ∀ (s : Frame) (g : Nibble), frameNumber (packFrame s g) = (frameNumber s * 16) % 2 ^ 256 + g.toNat

/-! ## The Sample Accumulator -/

/-- R68, R69: ACC.APPEND inside the capacity completes: the data stands at `SB[existing ..)` in order, the counter is
the new count, which is returned, and every element below the data, every element above it unless the count falls below
the old one, and all other state is as it was (what `datalen` becomes in a decode context, and what stands above a
count that falls, is stated on its own). Both command bytes decode to it. -/
def Obligations.AppendStoresContiguously : Prop :=
  (∀ (cmd : Byte) (args : Operands), cmd = 0x80 ∨ cmd = 0x90 →
    decode ⟨.internal, cmd, args⟩ = .ok (.accAppend args.count args.samples)) ∧
  (∀ (existing : Nat) (d : List Sample) (s : State), s.busy = false → existing + d.length ≤ Config.CAP →
    ∃ t, exec (.accAppend existing d) s = .next t ∧
      t.samples = existing + d.length ∧ t.ret = some (.count (existing + d.length)) ∧
      (∀ (k : Nat) (h : k < d.length), t.sampleAt (existing + k) = d[k]) ∧
      (∀ i, i < existing → t.sampleAt i = s.sampleAt i) ∧
      (s.samples ≤ existing + d.length → ∀ i, existing + d.length ≤ i → t.sampleAt i = s.sampleAt i) ∧
      (s.dir = .enc → t.datalen = s.datalen) ∧
      SameOb s t ∧ SameW s t ∧ SameLife s t ∧ SameContext s t ∧
      t.chain = s.chain ∧ t.log = s.log ∧ t.engine = s.engine ∧ t.draws = s.draws)

/-- spec/10_state.md sections 3 and 5 (R23, R31(b)): an ACC.APPEND that leaves fewer samples than there were, which the
driver never issues, completes with its data stored and what stands below the data kept; from the new count on every
element is a free value, and not the one of before. Which free value it is, is the model's form, log entry 12. -/
def Obligations.AppendDropsAboveCount : Prop :=
  ∀ (existing : Nat) (d : List Sample) (s : State), s.busy = false → existing + d.length ≤ Config.CAP →
    existing + d.length < s.samples → ∃ t, exec (.accAppend existing d) s = .next t ∧
      t.samples = existing + d.length ∧ (∀ i, i < existing → t.sampleAt i = s.sampleAt i) ∧
      (∀ (k : Nat) (h : k < d.length), t.sampleAt (existing + k) = d[k]) ∧
      (∀ i, existing + d.length ≤ i → t.sampleAt i = Config.unspecSample (s.epoch + 1) i)

/-- The model's reading of R73 (log entry 9): in a decode context ACC.APPEND adds two bytes a sample to `datalen`. -/
def Obligations.AppendCountsBytesInDecode : Prop :=
  ∀ (existing : Nat) (d : List Sample) (s : State), s.busy = false → existing + d.length ≤ Config.CAP →
    s.dir = .dec → ∃ t, exec (.accAppend existing d) s = .next t ∧ t.datalen = s.datalen + 2 * d.length

/-- spec/40_accumulator.md, ACC.COMPACT (R71, R72): inside the buffer it completes; element `k` is what element
`consumed + k` was before anything was written, also where the ranges overlap; the counter is the remaining count;
everything but `SB` is as it was. Outside the buffer it faults (spec/20_memory.md section 1). -/
def Obligations.CompactMovesToFront : Prop :=
  (∀ (consumed remaining : Nat) (s : State), s.busy = false → consumed + remaining ≤ Config.CAP →
    ∃ t, exec (.accCompact consumed remaining) s = .next t ∧ t.samples = remaining ∧ t.ret = none ∧
      (∀ k, k < remaining → t.sampleAt k = s.sampleAt (consumed + k)) ∧
      t.datalen = s.datalen ∧ SameOb s t ∧ SameW s t ∧ SameLife s t ∧ SameContext s t ∧
      t.chain = s.chain ∧ t.log = s.log ∧ t.engine = s.engine ∧ t.draws = s.draws) ∧
  (∀ (consumed remaining : Nat) (s : State), s.busy = false → Config.CAP < consumed + remaining →
    exec (.accCompact consumed remaining) s = .fault .bufferOverrun)

/-- spec/40_accumulator.md R69(e), spec/43_driver_encode.md R93(c): two deliveries one after the other leave exactly
the state that one delivery of both together leaves, whatever their sizes. -/
def Obligations.DeliveriesJoin : Prop :=
  ∀ (len₁ n₁ len₂ n₂ len n : BitVec 16) (a b : List Sample) (s : State),
    s.busy = false → s.dir = .enc → s.life = .live →
    len₁.toNat = 2 * n₁.toNat → len₂.toNat = 2 * n₂.toNat → len.toNat = 2 * n.toNat →
    a.length = n₁.toNat → b.length = n₂.toNat → n.toNat = n₁.toNat + n₂.toNat →
    s.samples + n.toNat ≤ Config.CAP →
    ∃ t, andThen (exec (.encFramein len₁ n₁ a) s) (exec (.encFramein len₂ n₂ b)) = .next t ∧
      exec (.encFramein len n (a ++ b)) s = .next t

/-! ## Creation and destruction -/

/-- The command byte `cmd` is the public operation `i` on the host port, whatever its operand fields hold. -/
def Sys2Proof.Machine.HostByte (cmd : Byte) (i : Instr) : Prop := ∀ args : Operands, decode ⟨.host, cmd, args⟩ = .ok i

/-- What CREATE of a direction does (R90, R100), by the engine's answer. -/
def Sys2Proof.Machine.CreateEffect (d : Dir) (call : EngineCall) (i : Instr) : Prop :=
  ∀ (s : State), s.busy = false → s.dir = d → s.life = .uncreated →
    (∀ (id : Nat) (rest : List (Reply (Option Nat))), s.engine.creates = .answer (some id) :: rest →
      ∃ t, exec i s = .next t ∧ t.result = some .ok ∧ t.handle = some ⟨d, id⟩ ∧ t.life = .live ∧ t.phase = .idle ∧
        t.samples = 0 ∧ (d = .dec → t.datalen = 0) ∧
        t.engine = { s.engine with creates := rest, calls := s.engine.calls ++ [call] } ∧
        t.chain = [] ∧ t.log = s.log ∧ t.draws = s.draws ∧ SameContext s t) ∧
    (∀ (rest : List (Reply (Option Nat))), s.engine.creates = .answer none :: rest →
      ∃ t, exec i s = .next t ∧ t.result = some .fail ∧ t.handle = none ∧ t.life = .failed ∧
        t.engine = { s.engine with creates := rest, calls := s.engine.calls ++ [call] } ∧
        t.chain = [] ∧ t.log = s.log ∧ t.draws = s.draws ∧ SameContext s t)

/-- R90 (with R112, R128): ENC.CREATE in Uncreated completes with either answer of the engine: Live with its handle and
OK, or Failed and FAIL; the encoder is asked once, with DTX_FLAG. What a failure leaves of phase, counters and buffers
is stated on its own. -/
def Obligations.EncCreateEffect : Prop :=
  HostByte 0x00 .encCreate ∧ CreateEffect .enc (.createEncoder Config.dtxFlag) .encCreate

/-- R100 (with R113, R128): DEC.CREATE, likewise, with the decoder. -/
def Obligations.DecCreateEffect : Prop :=
  HostByte 0x10 .decCreate ∧ CreateEffect .dec .createDecoder .decCreate

/-- spec/10_state.md section 7 (the column "after failed CREATE"), read as log entry 15 says: from every state that a
CREATE can fail in, also one with samples, a failed CREATE of either direction leaves Idle, the direction's
counters 0 and nothing known of the three buffers. -/
def Obligations.FailedCreateLeaves : Prop :=
  ∀ (d : Dir) (rest : List (Reply (Option Nat))) (s : State), s.busy = false → s.dir = d → s.life = .uncreated →
    s.engine.creates = .answer none :: rest →
    ∃ t, exec (match d with | .enc => .encCreate | .dec => .decCreate) s = .next t ∧ t.result = some .fail ∧
      t.phase = .idle ∧ t.samples = 0 ∧ (d = .dec → t.datalen = 0) ∧ t.sb = [] ∧ t.ob = [] ∧ t.w = []

/-- The model's own rule for an engine of which no answer is queued (log entry 5): CREATE then has the outcome that
queueing the free answer would give, and has a next state whatever that answer is. -/
def Obligations.UnqueuedAnswerIsFree : Prop :=
  ∀ s : State, s.busy = false → s.life = .uncreated → s.engine.creates = [] →
    (s.dir = .enc → exec .encCreate s = exec .encCreate (s.setEngine { s.engine with
        creates := [Config.createReply (s.engine.calls ++ [.createEncoder Config.dtxFlag])] }) ∧
      ∃ t, exec .encCreate s = .next t) ∧
    (s.dir = .dec → exec .decCreate s = exec .decCreate (s.setEngine { s.engine with
        creates := [Config.createReply (s.engine.calls ++ [.createDecoder])] }) ∧
      ∃ t, exec .decCreate s = .next t)

/-- What DESTROY of a direction does (R96, R97, R107). -/
def Sys2Proof.Machine.DestroyEffect (d : Dir) (call : Handle → EngineCall) (i : Instr) : Prop :=
  ∀ (s : State), s.busy = false → s.dir = d →
    (∀ (h : Handle) (u : Unit) (rest : List (Reply Unit)), s.handle = some h →
      s.engine.destroys = .answer u :: rest →
      ∃ t, exec i s = .next t ∧ t.result = some .ok ∧ t.handle = none ∧ t.life = .destroyed ∧ t.samples = 0 ∧
        (d = .dec → t.datalen = 0) ∧
        t.engine = { s.engine with destroys := rest, calls := s.engine.calls ++ [call h] } ∧
        t.chain = [] ∧ t.log = s.log ∧ t.phase = s.phase ∧ t.draws = s.draws ∧ SameContext s t) ∧
    (s.handle = none →
      ∃ t, exec i s = .next t ∧ t.result = some .ok ∧ t.handle = none ∧ t.life = .destroyed ∧ t.samples = 0 ∧
        (d = .dec → t.datalen = 0) ∧ t.engine = s.engine ∧
        t.chain = [] ∧ t.log = s.log ∧ t.phase = s.phase ∧ t.draws = s.draws ∧ SameContext s t)

/-- R96: ENC.DESTROY completes in every life: with a handle the engine's destroy is called once with it; without one
no engine call is made; afterwards Destroyed, no handle, no samples, nothing emitted. -/
def Obligations.EncDestroyEffect : Prop :=
  HostByte 0x03 .encDestroy ∧ DestroyEffect .enc .destroyEncoder .encDestroy

/-- R107: DEC.DESTROY, likewise; both counters are 0. -/
def Obligations.DecDestroyEffect : Prop :=
  HostByte 0x13 .decDestroy ∧ DestroyEffect .dec .destroyDecoder .decDestroy

/-! ## Gates -/

/-- R63: with no operation running, a public operation of the other direction is refused whatever its operands and
whatever else holds (while one is running: NoSecondOperationWhileRunning). -/
def Obligations.WrongDirectionRefused : Prop :=
  ∀ (s : State) (len nsamp : BitVec 16) (pcm : List Sample) (packed : List Byte), s.busy = false →
    (s.dir = .dec → ∀ i ∈ [Instr.encCreate, .encFramein len nsamp pcm, .encFrameout, .encDestroy],
      exec i s = .refused .wrongDirection) ∧
    (s.dir = .enc → ∀ i ∈ [Instr.decCreate, .decFramein len nsamp packed, .decFrameout, .decDestroy],
      exec i s = .refused .wrongDirection)

/-- R98, R108: in a context of its direction with no operation running, CREATE is refused exactly outside Uncreated,
FRAMEIN and FRAMEOUT are refused as not Live exactly outside Live, and DESTROY always has a next state. -/
def Obligations.LifeCycleGates : Prop :=
  ∀ (s : State) (len nsamp : BitVec 16) (pcm : List Sample) (packed : List Byte), s.busy = false →
    (s.dir = .enc →
      (exec .encCreate s = .refused .alreadyCreated ↔ s.life ≠ .uncreated) ∧
      (exec (.encFramein len nsamp pcm) s = .refused .notLive ↔ s.life ≠ .live) ∧
      (exec .encFrameout s = .refused .notLive ↔ s.life ≠ .live) ∧
      (∃ t, exec .encDestroy s = .next t)) ∧
    (s.dir = .dec →
      (exec .decCreate s = .refused .alreadyCreated ↔ s.life ≠ .uncreated) ∧
      (exec (.decFramein len nsamp packed) s = .refused .notLive ↔ s.life ≠ .live) ∧
      (exec .decFrameout s = .refused .notLive ↔ s.life ≠ .live) ∧
      (∃ t, exec .decDestroy s = .next t))

/-- spec/60_exceptions.md sections 1 and 6: while an operation of the context is running, every micro-operation and every
public operation of the context's own direction is refused as re-entrant; a public operation of the other direction is
refused as that. That there is such a state, and that the direction is checked first, are the model's, log entries 6
and 7. -/
def Obligations.NoSecondOperationWhileRunning : Prop :=
  ∀ (i : Instr) (s : State), s.busy = true →
    exec i s = .refused (if publicDir i = none ∨ publicDir i = some s.dir then .reentrant else .wrongDirection)

/-! ## Encode direction -/

/-- R92, R93(a) to (c): ENC.FRAMEIN of a delivery that fits completes: the samples stand after those already there, in
order, the counter grows by their number, the phase is Accumulating, the result OK; the engine is not called, nothing
is emitted, everything else is as it was. -/
def Obligations.EncFrameinAppends : Prop :=
  (∀ args : Operands, decode ⟨.host, 0x01, args⟩ = .ok (.encFramein args.len args.nsamp (pcmData args))) ∧
  ∀ (len nsamp : BitVec 16) (d : List Sample) (s : State), s.busy = false → s.dir = .enc → s.life = .live →
    len.toNat = 2 * nsamp.toNat → d.length = nsamp.toNat → s.samples + nsamp.toNat ≤ Config.CAP →
    ∃ t, exec (.encFramein len nsamp d) s = .next t ∧ t.result = some .ok ∧
      t.samples = s.samples + nsamp.toNat ∧ t.phase = .accumulating ∧
      (∀ (k : Nat) (h : k < d.length), t.sampleAt (s.samples + k) = d[k]) ∧
      (∀ i, ¬ (s.samples ≤ i ∧ i < s.samples + nsamp.toNat) → t.sampleAt i = s.sampleAt i) ∧
      t.chain = [] ∧ t.engine = s.engine ∧ t.log = s.log ∧ t.life = s.life ∧ t.handle = s.handle ∧
      t.datalen = s.datalen ∧ SameOb s t ∧ SameW s t ∧ SameContext s t ∧ t.draws = s.draws

/-- spec/43_driver_encode.md R93(d): a delivery whose two length fields disagree is refused, in a live context. -/
def Obligations.LengthMismatchRefused : Prop :=
  ∀ (len nsamp : BitVec 16) (d : List Sample) (s : State), s.busy = false → s.dir = .enc → s.life = .live →
    len.toNat ≠ 2 * nsamp.toNat → exec (.encFramein len nsamp d) s = .refused .lengthMismatch

/-- R94: ENC.FRAMEOUT whose engine calls are all answered completes. For `N = floor(samples / 160)` answers it makes
`N` encode calls on the consecutive units, with the handle, mode 7 and FORCE_FLAG; emits one packed frame for each
status 32 and logs each other status, in order; leaves `samples - 160 × N` samples, moved to the front; the phase is
Accumulating if a unit was taken and as it was if none; the result is OK; everything else is as it was. -/
def Obligations.EncFrameoutDrains : Prop :=
  HostByte 0x02 .encFrameout ∧
  ∀ (as : List EncodeAnswer) (rest : List (Reply EncodeAnswer)) (s : State),
    s.busy = false → s.dir = .enc → s.life = .live → s.samples ≤ Config.CAP →
    as.length = s.samples / 160 → s.engine.encodes = as.map .answer ++ rest →
    ∃ t, exec .encFrameout s = .next t ∧ t.result = some .ok ∧
      t.chain = framesFor as s.draws ∧ t.log = s.log ++ mismatchesFor as ∧
      t.engine = { s.engine with encodes := rest, calls := s.engine.calls ++
        (List.range (s.samples / 160)).map (fun k => .encode s.handle 7 (s.unit k) Config.forceFlag) } ∧
      t.samples = s.samples - 160 * (s.samples / 160) ∧
      (∀ k, k < t.samples → t.sampleAt k = s.sampleAt (160 * (s.samples / 160) + k)) ∧
      t.phase = (if s.samples / 160 = 0 then s.phase else .accumulating) ∧
      t.draws = s.draws + successCount as ∧
      (∀ p, t.chain.getLast? = some (packedRecord p) → ∀ (i : Nat) (h : i < 32), t.obAt i = p[i]) ∧
      (t.chain = [] → SameOb s t) ∧
      t.life = s.life ∧ t.handle = s.handle ∧ t.datalen = s.datalen ∧ SameW s t ∧ SameContext s t

/-- spec/20_memory.md R41(a) and section 7: where the host drains makes no difference. Two deliveries with an
ENC.FRAMEOUT after each, and the same two deliveries with one ENC.FRAMEOUT after both, make the same engine calls, emit
the same frames in the same order, log the same events, and leave the same samples. -/
def Obligations.DrainPointsIrrelevant : Prop :=
  ∀ (len₁ n₁ len₂ n₂ : BitVec 16) (a b : List Sample) (as : List EncodeAnswer) (rest : List (Reply EncodeAnswer))
    (s : State), s.busy = false → s.dir = .enc → s.life = .live →
    len₁.toNat = 2 * n₁.toNat → len₂.toNat = 2 * n₂.toNat → a.length = n₁.toNat → b.length = n₂.toNat →
    s.samples + n₁.toNat + n₂.toNat ≤ Config.CAP →
    as.length = (s.samples + n₁.toNat + n₂.toNat) / 160 → s.engine.encodes = as.map .answer ++ rest →
    ∃ t₁ t₂ t₃ t₄ u₁ u₂ u₃ : State,
      exec (.encFramein len₁ n₁ a) s = .next t₁ ∧ exec .encFrameout t₁ = .next t₂ ∧
      exec (.encFramein len₂ n₂ b) t₂ = .next t₃ ∧ exec .encFrameout t₃ = .next t₄ ∧
      exec (.encFramein len₁ n₁ a) s = .next u₁ ∧ exec (.encFramein len₂ n₂ b) u₁ = .next u₂ ∧
      exec .encFrameout u₂ = .next u₃ ∧
      t₄.engine.calls = u₃.engine.calls ∧ t₄.engine.encodes = u₃.engine.encodes ∧
      t₂.chain ++ t₄.chain = u₃.chain ∧ t₄.log = u₃.log ∧ t₄.samples = u₃.samples ∧
      (∀ k, k < t₄.samples → t₄.sampleAt k = u₃.sampleAt k)

/-- spec/43_driver_encode.md R95(a) to (d): an ENC.FRAMEOUT that returns has called the engine once for each full
unit and emitted one frame for each of them but those whose status was logged; fewer than 160 samples remain. -/
def Obligations.FrameCountConservation : Prop :=
  ∀ (s t : State), exec .encFrameout s = .next t → t.busy = false →
    t.chain.length + (t.log.length - s.log.length) = s.samples / 160 ∧
      t.engine.calls.length = s.engine.calls.length + s.samples / 160 ∧
      t.samples = s.samples % 160 ∧ (∀ f ∈ t.chain, f.datalen = 32 ∧ f.samples = 160)

/-! ## Decode direction -/

/-- R102, R87: DEC.FRAMEIN of a delivery that fits, with all engine calls answered, completes. For
`M = floor(len / 31)` strides it makes `M` decode calls, with the handle, the rebuilt storage frame of each stride and
BFI_GOOD; the blocks stand one after the other behind what was there; `samples` grows by 160 × M and `datalen` by
320 × M; the phase is Accumulating, the result OK, nothing is emitted; everything else is as it was. `nsamp` is not
used. -/
def Obligations.DecFrameinAppendsBlocks : Prop :=
  (∀ args : Operands, decode ⟨.host, 0x11, args⟩ = .ok (.decFramein args.len args.nsamp (packedData args))) ∧
  ∀ (len nsamp : BitVec 16) (data : List Byte) (bs : List Block) (rest : List (Reply Block)) (s : State),
    s.busy = false → s.dir = .dec → s.life = .live → data.length = len.toNat →
    bs.length = len.toNat / 31 → s.engine.decodes = bs.map .answer ++ rest →
    s.samples + 160 * (len.toNat / 31) ≤ Config.CAP →
    ∃ t, exec (.decFramein len nsamp data) s = .next t ∧ t.result = some .ok ∧
      t.samples = s.samples + 160 * (len.toNat / 31) ∧ t.datalen = s.datalen + 320 * (len.toNat / 31) ∧
      (∀ (k : Nat) (hk : k < bs.length) (j : Nat) (hj : j < 160),
        t.sampleAt (s.samples + 160 * k + j) = (bs[k])[j]) ∧
      (∀ i, ¬ (s.samples ≤ i ∧ i < s.samples + 160 * (len.toNat / 31)) → t.sampleAt i = s.sampleAt i) ∧
      t.engine = { s.engine with decodes := rest, calls := s.engine.calls ++ (List.range (len.toNat / 31)).map (fun k =>
        .decode s.handle (unpackFrame (strideOf data k)) Config.bfiGood) } ∧
      t.phase = .accumulating ∧ t.chain = [] ∧ t.log = s.log ∧
      (∀ k, len.toNat / 31 = k + 1 →
        ∀ (i : Nat) (h : i < 32), t.wAt i = (unpackFrame (strideOf data k))[i]) ∧
      (len.toNat < 31 → SameW s t) ∧
      t.life = s.life ∧ t.handle = s.handle ∧ SameOb s t ∧ SameContext s t ∧ t.draws = s.draws

/-- R70, R130: an append that would make `samples` exceed 8000 has no next state: ACC.APPEND, ENC.FRAMEIN, and
DEC.FRAMEIN when the engine answers its calls, end in the fault BufferOverrun, with no value. -/
def Obligations.OverrunHasNoNextState : Prop :=
  (∀ (existing : Nat) (d : List Sample) (s : State), s.busy = false → Config.CAP < existing + d.length →
    exec (.accAppend existing d) s = .fault .bufferOverrun) ∧
  (∀ (len nsamp : BitVec 16) (d : List Sample) (s : State), s.busy = false → s.dir = .enc → s.life = .live →
    len.toNat = 2 * nsamp.toNat → d.length = nsamp.toNat → Config.CAP < s.samples + nsamp.toNat →
    exec (.encFramein len nsamp d) s = .fault .bufferOverrun) ∧
  (∀ (len nsamp : BitVec 16) (data : List Byte) (bs : List Block) (rest : List (Reply Block)) (s : State),
    s.busy = false → s.dir = .dec → s.life = .live → data.length = len.toNat →
    bs.length = len.toNat / 31 → s.engine.decodes = bs.map .answer ++ rest →
    s.samples ≤ Config.CAP → Config.CAP < s.samples + 160 * (len.toNat / 31) →
    exec (.decFramein len nsamp data) s = .fault .bufferOverrun)

/-- The model's own rule (log entry 23) for a delivery that holds less than its count says. A PCM delivery, and a packed
delivery that is short in one of its full strides, is read outside its end, the overrun of spec/20_memory.md section 1:
it faults, the packed one once the engine has answered for the strides before (or the blocks have overrun). One that is
short in its trailing bytes only has the outcome it has with any bytes added. -/
def Obligations.ShortDeliveryFaults : Prop :=
  (∀ (len nsamp : BitVec 16) (d : List Sample) (s : State), s.busy = false → s.dir = .enc → s.life = .live →
    len.toNat = 2 * nsamp.toNat → d.length < nsamp.toNat →
    exec (.encFramein len nsamp d) s = .fault .bufferOverrun) ∧
  (∀ (len nsamp : BitVec 16) (data : List Byte) (bs : List Block) (rest : List (Reply Block)) (s : State),
    s.busy = false → s.dir = .dec → s.life = .live → data.length < 31 * (len.toNat / 31) →
    bs.length = data.length / 31 → s.engine.decodes = bs.map .answer ++ rest →
    exec (.decFramein len nsamp data) s = .fault .bufferOverrun) ∧
  (∀ (len nsamp : BitVec 16) (data more : List Byte) (s : State), 31 * (len.toNat / 31) ≤ data.length →
    exec (.decFramein len nsamp (data ++ more)) s = exec (.decFramein len nsamp data) s)

/-- R88, and R102 for `nsamp`: two packed deliveries of one length that agree on their full strides have the same
outcome in every state: the trailing bytes, and the sample count, have no influence. -/
def Obligations.TrailingBytesIgnored : Prop :=
  ∀ (len nsamp nsamp' : BitVec 16) (data data' : List Byte) (s : State),
    data.length = len.toNat → data'.length = len.toNat →
    data.take (31 * (len.toNat / 31)) = data'.take (31 * (len.toNat / 31)) →
    exec (.decFramein len nsamp data) s = exec (.decFramein len nsamp' data') s

/-- R105, R106: DEC.FRAMEOUT completes in a live context whose counter is inside the capacity. With samples it emits
everything as one record with the byte counter, or with DEC_EMIT_PER_UNIT one record for every 160 samples, and
clears both counters; with none it emits nothing and changes nothing. The engine is not called. -/
def Obligations.DecFrameoutHandsOver : Prop :=
  HostByte 0x12 .decFrameout ∧ (∀ d, (State.resetAs d).emitPerUnit = false) ∧
  ∀ (s : State), s.busy = false → s.dir = .dec → s.life = .live → s.samples ≤ Config.CAP →
    ∃ t, exec .decFrameout s = .next t ∧ t.result = some .ok ∧
      t.engine = s.engine ∧ t.log = s.log ∧ t.life = s.life ∧ t.handle = s.handle ∧ SameOb s t ∧ SameW s t ∧
      SameContext s t ∧ t.draws = s.draws ∧
      (if s.samples = 0 then
        t.chain = [] ∧ t.samples = 0 ∧ t.datalen = s.datalen ∧ t.phase = s.phase ∧ SameSb s t
      else
        t.samples = 0 ∧ t.datalen = 0 ∧ t.phase = .accumulating ∧
        (s.emitPerUnit = false →
          t.chain = [{ data := .pcm (s.slice 0 s.samples), datalen := s.datalen, samples := s.samples }]) ∧
        (s.emitPerUnit = true →
          t.chain = (List.range (s.samples / 160)).map (fun j =>
            { data := .pcm (s.slice (160 * j) 160), datalen := 320, samples := 160 })))

/-! ## A silent engine -/

/-- What CREATE and DESTROY of a direction do while the transaction `call` they issue is not answered. -/
def Sys2Proof.Machine.WaitsAtOnce (i : Instr) (call : EngineCall) (s : State) (q : EnginePort) : Prop :=
  ∃ t, exec i s = .next t ∧ Waiting s t 0 ∧ t.phase = s.phase ∧ SameSb s t ∧ SameOb s t ∧ SameW s t ∧
    t.chain = [] ∧ t.log = s.log ∧ t.draws = s.draws ∧ t.engine = { q with calls := s.engine.calls ++ [call] }

/-- spec/60_exceptions.md section 8 (log entries 6 and 27): a call whose queued answer is silence leaves its operation
running, with no result, the constants, pending commands, life and handle as they were. CREATE and DESTROY of either
direction have then changed nothing but the engine port; ENC.FRAMEOUT and DEC.FRAMEIN stand in FrameReady (R20), with
the frames, events and samples of the units or strides answered before, and of no other; an ENC.FRAMEOUT has compacted
nothing. -/
def Obligations.SilentEngineHoldsOperation : Prop :=
  (∀ (d : Dir) (rest : List (Reply (Option Nat))) (s : State), s.busy = false → s.dir = d → s.life = .uncreated →
    s.engine.creates = .silent :: rest →
    WaitsAtOnce (match d with | .enc => .encCreate | .dec => .decCreate) (createCall d) s
      { s.engine with creates := rest }) ∧
  (∀ (d : Dir) (h : Handle) (rest : List (Reply Unit)) (s : State), s.busy = false → s.dir = d → s.handle = some h →
    s.engine.destroys = .silent :: rest →
    WaitsAtOnce (match d with | .enc => .encDestroy | .dec => .decDestroy) (destroyCall d h) s
      { s.engine with destroys := rest }) ∧
  (∀ (as : List EncodeAnswer) (rest : List (Reply EncodeAnswer)) (s : State), s.busy = false → s.dir = .enc →
    s.life = .live → s.samples ≤ Config.CAP → as.length < s.samples / 160 →
    s.engine.encodes = as.map .answer ++ .silent :: rest →
    ∃ t, exec .encFrameout s = .next t ∧ Waiting s t 0 ∧ t.phase = .frameReady ∧ SameSb s t ∧ SameW s t ∧
      t.chain = framesFor as s.draws ∧ t.log = s.log ++ mismatchesFor as ∧ t.draws = s.draws + successCount as ∧
      t.engine = { s.engine with encodes := rest, calls := s.engine.calls ++
        (List.range (as.length + 1)).map (fun k => .encode s.handle 7 (s.unit k) Config.forceFlag) } ∧
      (∀ p, t.chain.getLast? = some (packedRecord p) → ∀ (i : Nat) (h : i < 32), t.obAt i = p[i]) ∧
      (t.chain = [] → SameOb s t)) ∧
  (∀ (len nsamp : BitVec 16) (data : List Byte) (bs : List Block) (rest : List (Reply Block)) (s : State),
    s.busy = false → s.dir = .dec → s.life = .live → data.length = len.toNat → bs.length < len.toNat / 31 →
    s.engine.decodes = bs.map .answer ++ .silent :: rest → s.samples + 160 * bs.length ≤ Config.CAP →
    ∃ t, exec (.decFramein len nsamp data) s = .next t ∧ Waiting s t (160 * bs.length) ∧ t.phase = .frameReady ∧
      (∀ (k : Nat) (hk : k < bs.length) (j : Nat) (hj : j < 160),
        t.sampleAt (s.samples + 160 * k + j) = (bs[k])[j]) ∧
      (∀ i, ¬ (s.samples ≤ i ∧ i < s.samples + 160 * bs.length) → t.sampleAt i = s.sampleAt i) ∧
      (∀ (i : Nat) (h : i < 32), t.wAt i = (unpackFrame (strideOf data bs.length))[i]) ∧ SameOb s t ∧
      t.chain = [] ∧ t.log = s.log ∧ t.draws = s.draws ∧
      t.engine = { s.engine with decodes := rest, calls := s.engine.calls ++
        (List.range (bs.length + 1)).map (fun k =>
          .decode s.handle (unpackFrame (strideOf data k)) Config.bfiGood) })

/-- spec/43_driver_encode.md R99 and spec/44_driver_decode.md R109 under the named premise EngineResponds (R145): an
operation whose engine calls are all answered does not stay running. -/
def Obligations.AnsweredOperationsReturn : Prop :=
  ∀ (i : Instr) (s t : State), s.busy = false → engineResponds i s = true → exec i s = .next t → t.busy = false

/-- spec/70_reset_and_hazards.md R152 (the capacity contract): inside it no operation faults. -/
def Obligations.NoFaultWithinCapacity : Prop :=
  ∀ (i : Instr) (s : State) (r : Fault), s.samples ≤ Config.CAP → withinCapacity i s → exec i s ≠ .fault r

/-! ## The whole machine -/

/-- R18: `dir` is a constant of the context, and so is DEC_EMIT_PER_UNIT: no step writes either. -/
def Obligations.DirectionIsConstant : Prop :=
  ∀ s t : State, step s = .next t → t.dir = s.dir ∧ t.emitPerUnit = s.emitPerUnit

/-- R19: the only changes of `life`, over every operation: CREATE may take Uncreated to Live or Failed, DESTROY may take
any other life to Destroyed; nothing else changes it, and nothing leaves Destroyed. -/
def Obligations.LifeTransitions : Prop :=
  ∀ (i : Instr) (s t : State), exec i s = .next t → t.life ≠ s.life →
    (s.life = .uncreated ∧ (t.life = .live ∨ t.life = .failed) ∧ (i = .encCreate ∨ i = .decCreate)) ∨
    (s.life ≠ .destroyed ∧ t.life = .destroyed ∧ (i = .encDestroy ∨ i = .decDestroy))

/-- R58 (codes): every public operation that returns gives a result code, 0 or 1, and only CREATE can give FAIL, with the
context Failed; every other public operation gives OK. -/
def Obligations.PublicResultCodes : Prop :=
  Res.ok.number = 0 ∧ Res.fail.number = 1 ∧
  ∀ (i : Instr) (s t : State), isPublic i = true → exec i s = .next t → t.busy = false →
    t.result = some .ok ∨ (t.result = some .fail ∧ (i = .encCreate ∨ i = .decCreate) ∧ t.life = .failed)

/-- R122, R129: the log only grows, and only by ENC.FRAMEOUT, by events whose status is not 32. -/
def Obligations.OnlyEncFrameoutLogs : Prop :=
  ∀ (i : Instr) (s t : State), exec i s = .next t →
    ∃ events : List LogEvent, t.log = s.log ++ events ∧ (i ≠ .encFrameout → events = []) ∧
      (∀ e ∈ events, ∃ status : Int, e = .encodeStatusMismatch status ∧ status ≠ 32)

/-- spec/44_driver_decode.md R104(b), R104(c) and spec/45_external_interfaces.md R114: every transaction a step adds is
well formed: an encode call carries mode 7 and 160 samples, a decode call a frame that begins with `0x3C` and ends in
a zero nibble; earlier transactions stay. -/
def Obligations.EngineCallsWellFormed : Prop :=
  ∀ s t : State, step s = .next t →
    ∃ calls : List EngineCall, t.engine.calls = s.engine.calls ++ calls ∧ ∀ c ∈ calls, callFormed c

/-- spec/10_state.md section 2 and spec/43_driver_encode.md R97: every step but a hardware reset keeps that the engine
was created at most once and destroyed at most once, and that a handle is held exactly in Live. -/
def Obligations.OneEngineLifetimeKept : Prop :=
  ∀ s t : State, s.resetLine = false → s.OneLifetime → step s = .next t → t.OneLifetime

/-- spec/20_memory.md section 2: every step keeps the three buffers in canonical form and the counter inside the
capacity. -/
def Obligations.CanonicalBuffersKept : Prop :=
  ∀ s t : State, s.Canonical → step s = .next t → t.Canonical

/-- spec/10_state.md sections 3 and 5 (R23, R31(b)): every step, of a micro-operation too, keeps that no element of `SB`
at or above the counter is known: each reads as a free value. -/
def Obligations.NothingKnownAboveCount : Prop :=
  ∀ s t : State, s.KnownBelowCount → step s = .next t → t.KnownBelowCount

/-- spec/10_state.md section 6 (R33) and R20: every step keeps the invariants of an operation boundary, for a context
that only the host commands. -/
def Obligations.BoundaryInvariantKept : Prop :=
  ∀ s t : State, s.Boundary → step s = .next t → t.Boundary

/-- spec/70_reset_and_hazards.md section 1: after hardware reset a context of either direction is Uncreated, Idle, with
no handle, zero counters and no buffer contents, has called the engine nothing, and meets all four invariants. -/
def Obligations.ResetMeetsInvariants : Prop :=
  ∀ d : Dir, (State.resetAs d).life = .uncreated ∧ (State.resetAs d).phase = .idle ∧
    (State.resetAs d).handle = none ∧ (State.resetAs d).samples = 0 ∧ (State.resetAs d).datalen = 0 ∧
    (State.resetAs d).engine.calls = [] ∧ (State.resetAs d).dir = d ∧
    (State.resetAs d).Canonical ∧ (State.resetAs d).KnownBelowCount ∧ (State.resetAs d).Boundary ∧
    (State.resetAs d).OneLifetime

/-- spec/70_reset_and_hazards.md section 1: a hardware reset leaves Uncreated, Idle, no handle, zero counters, no
buffer contents and no engine call, from every state. That it is an input the next step takes, that it ends a running
operation, and that the constants, the log and the pending commands outlive it are the model's choice, log entry 30. -/
def Obligations.HardwareResetEffect : Prop :=
  ∀ s : State, s.resetLine = true →
    ∃ t, step s = .next t ∧ t.life = .uncreated ∧ t.phase = .idle ∧ t.handle = none ∧ t.samples = 0 ∧
      t.datalen = 0 ∧ t.sb = [] ∧ t.w = [] ∧ t.ob = [] ∧ t.engine = s.engine ∧ t.busy = false ∧
      t.result = none ∧ t.chain = [] ∧ t.log = s.log ∧ t.resetLine = false ∧ t.inbox = s.inbox ∧
      t.dir = s.dir ∧ t.emitPerUnit = s.emitPerUnit

/-- R133 (code column): the numbers of the results, of the log event, of the fault and of the refusals. -/
def Obligations.StatusCodes : Prop :=
  Res.ok.number = 0 ∧ Res.fail.number = 1 ∧ (∀ v, (LogEvent.encodeStatusMismatch v).number = 2) ∧
  Fault.bufferOverrun.number = 3 ∧ (∀ c, (Refusal.reservedCommand c).number = some 4) ∧
  Refusal.wrongDirection.number = some 5 ∧ Refusal.notLive.number = some 6 ∧
  Refusal.alreadyCreated.number = some 7 ∧ Refusal.lengthMismatch.number = some 8 ∧
  Refusal.reentrant.number = some 9
end

