-- ==== Sys2Proof/Laws/Memory.lean ====
section
/-!
SUPPORT. Sys2Proof/Laws/Memory.lean: the laws of the buffers' representation: what a read finds after MemWrite, that
it keeps the canonical form, and which indices are listed.
-/

namespace Sys2Proof.Machine

variable {α : Type}

/-! ## What a read finds -/

theorem Memory.find?_append (m n : Memory α) (i : Nat) :
    Memory.find? (m ++ n) i = (Memory.find? m i).or (Memory.find? n i) := by
  induction m with
  | nil => simp [Memory.find?]
  | cons c m ih =>
    obtain ⟨k, v⟩ := c
    by_cases h : k = i <;> simp [Memory.find?, h, ih]

theorem Memory.find?_filter (p : Nat → Bool) (m : Memory α) (i : Nat) :
    Memory.find? (m.filter fun c => p c.1) i = if p i then Memory.find? m i else none := by
  induction m with
  | nil => simp [Memory.find?]
  | cons c m ih =>
    obtain ⟨k, v⟩ := c
    by_cases hk : p k
    · by_cases h : k = i
      · subst h; simp [Memory.find?, hk]
      · simp [Memory.find?, hk, h, ih]
    · by_cases h : k = i
      · subst h; simp [hk, ih]
      · simp [Memory.find?, hk, h, ih]

theorem Memory.find?_run (vs : List α) : ∀ a i : Nat,
    Memory.find? (Memory.run a vs) i = if a ≤ i then vs[i - a]? else none := by
  induction vs with
  | nil => intro a i; simp [Memory.run, Memory.find?]
  | cons v vs ih =>
    intro a i
    rcases Nat.lt_trichotomy a i with h | h | h
    · have e : i - a = (i - (a + 1)) + 1 := by omega
      have h' : a ≤ i := by omega
      simp [Memory.run, Memory.find?, ih, Nat.ne_of_lt h, h', Nat.succ_le_of_lt h, e]
    · subst h; simp [Memory.run, Memory.find?]
    · have h1 : ¬ a ≤ i := by omega
      have h2 : ¬ a + 1 ≤ i := by omega
      have h3 : a ≠ i := by omega
      simp [Memory.run, Memory.find?, ih, h1, h2, h3]

/-- A read after MemWrite: the written element inside the written range, what was there before outside it (R37). -/
theorem Memory.find?_write (m : Memory α) (a : Nat) (vs : List α) (i : Nat) :
    Memory.find? (Memory.write m a vs) i =
      if a ≤ i ∧ i < a + vs.length then vs[i - a]? else Memory.find? m i := by
  have e1 := Memory.find?_filter (fun k => decide (k < a)) m i
  have e2 := Memory.find?_filter (fun k => decide (a + vs.length ≤ k)) m i
  unfold Memory.write
  rw [Memory.find?_append, Memory.find?_append, e1, e2, Memory.find?_run]
  by_cases h1 : i < a
  · have h2 : ¬ a ≤ i := by omega
    have h3 : ¬ a + vs.length ≤ i := by omega
    simp [h1, h2, h3]
  · by_cases h2 : a + vs.length ≤ i
    · have h3 : ¬ i < a + vs.length := by omega
      have h4 : a ≤ i := by omega
      have h5 : vs[i - a]? = none := List.getElem?_eq_none (by omega)
      simp [h1, h2, h3, h4, h5]
    · have h3 : i < a + vs.length := by omega
      have h4 : a ≤ i := by omega
      simp [h1, h2, h3, h4]

/-! ## Writing in two pieces -/

theorem Memory.run_append (vs ws : List α) : ∀ a : Nat,
    Memory.run a (vs ++ ws) = Memory.run a vs ++ Memory.run (a + vs.length) ws := by
  induction vs with
  | nil => intro a; simp [Memory.run]
  | cons v vs ih =>
    intro a
    simp [Memory.run, ih, Nat.add_assoc, Nat.add_comm 1]

theorem Memory.mem_run {vs : List α} : ∀ {a : Nat} {c : Nat × α},
    c ∈ Memory.run a vs → a ≤ c.1 ∧ c.1 < a + vs.length := by
  induction vs with
  | nil => intro a c h; simp [Memory.run] at h
  | cons v vs ih =>
    intro a c h
    simp only [Memory.run, List.mem_cons] at h
    rcases h with rfl | h
    · simp
    · have := ih h
      simp only [List.length_cons]
      omega

/-- Two filters of which one says all that both say. -/
theorem Memory.filter_filter_eq {p q r : Nat → Prop} [DecidablePred p] [DecidablePred q] [DecidablePred r]
    (h : ∀ k, (p k ∧ q k) ↔ r k) (m : Memory α) :
    (m.filter fun c => decide (q c.1)).filter (fun c => decide (p c.1)) = m.filter fun c => decide (r c.1) := by
  rw [List.filter_filter]
  refine List.filter_congr fun c _ => ?_
  rw [← Bool.decide_and]
  exact decide_eq_decide.2 (h c.1)

/-- Two adjacent writes are one (R69(e): appended data is contiguous). -/
theorem Memory.write_write (m : Memory α) (a : Nat) (vs ws : List α) :
    Memory.write (Memory.write m a vs) (a + vs.length) ws = Memory.write m a (vs ++ ws) := by
  have low : (m.filter fun c => decide (c.1 < a)).filter (fun c => decide (c.1 < a + vs.length)) =
      m.filter fun c => decide (c.1 < a) :=
    Memory.filter_filter_eq (p := fun k => k < a + vs.length) (q := fun k => k < a) (r := fun k => k < a)
      (fun k => by omega) m
  have high : (m.filter fun c => decide (a + vs.length ≤ c.1)).filter
      (fun c => decide (a + vs.length + ws.length ≤ c.1)) =
      m.filter fun c => decide (a + (vs ++ ws).length ≤ c.1) :=
    Memory.filter_filter_eq (p := fun k => a + vs.length + ws.length ≤ k) (q := fun k => a + vs.length ≤ k)
      (r := fun k => a + (vs ++ ws).length ≤ k) (fun k => by simp only [List.length_append]; omega) m
  have none_low : (m.filter fun c => decide (a + vs.length ≤ c.1)).filter (fun c => decide (c.1 < a + vs.length)) = [] :=
    List.filter_eq_nil_iff.2 fun c hc => by
      have := (List.mem_filter.1 hc).2
      simp only [decide_eq_true_eq] at this ⊢
      omega
  have none_high : (m.filter fun c => decide (c.1 < a)).filter
      (fun c => decide (a + vs.length + ws.length ≤ c.1)) = [] :=
    List.filter_eq_nil_iff.2 fun c hc => by
      have := (List.mem_filter.1 hc).2
      simp only [decide_eq_true_eq] at this ⊢
      omega
  have run_low : (Memory.run a vs).filter (fun c => decide (c.1 < a + vs.length)) = Memory.run a vs :=
    List.filter_eq_self.2 fun c hc => by simpa using (Memory.mem_run hc).2
  have run_high : (Memory.run a vs).filter (fun c => decide (a + vs.length + ws.length ≤ c.1)) = [] :=
    List.filter_eq_nil_iff.2 fun c hc => by
      have := (Memory.mem_run hc).2
      simp only [decide_eq_true_eq]
      omega
  simp only [Memory.write, List.filter_append, low, high, none_low, none_high, run_low, run_high, Memory.run_append,
    List.append_nil, List.nil_append, List.append_assoc]

/-- What is listed after MemWrite was listed before or is inside the written range. -/
theorem Memory.mem_write {m : Memory α} {a : Nat} {vs : List α} {c : Nat × α} (h : c ∈ Memory.write m a vs) :
    c ∈ m ∨ a ≤ c.1 ∧ c.1 < a + vs.length := by
  simp only [Memory.write, List.mem_append, List.mem_filter] at h
  rcases h with (h | h) | h
  · exact .inl h.1
  · exact .inr (Memory.mem_run h)
  · exact .inl h.1

/-! ## The canonical form -/

theorem Memory.wfFrom_mono {size lo lo' : Nat} (h : lo' ≤ lo) {m : Memory α}
    (hm : Memory.wfFrom size lo m = true) : Memory.wfFrom size lo' m = true := by
  cases m with
  | nil => rfl
  | cons c m =>
    obtain ⟨k, v⟩ := c
    simp only [Memory.wfFrom, Bool.and_eq_true, decide_eq_true_eq] at hm ⊢
    exact ⟨⟨by omega, hm.1.2⟩, hm.2⟩

theorem Memory.wfFrom_filter {size : Nat} (p : Nat × α → Bool) {m : Memory α} : ∀ {lo : Nat},
    Memory.wfFrom size lo m = true → Memory.wfFrom size lo (m.filter p) = true := by
  induction m with
  | nil => intro lo h; simpa using h
  | cons c m ih =>
    intro lo h
    obtain ⟨k, v⟩ := c
    simp only [Memory.wfFrom, Bool.and_eq_true, decide_eq_true_eq] at h
    by_cases hp : p (k, v)
    · simp only [List.filter_cons_of_pos hp, Memory.wfFrom, Bool.and_eq_true, decide_eq_true_eq]
      exact ⟨h.1, ih h.2⟩
    · rw [List.filter_cons_of_neg hp]
      exact Memory.wfFrom_mono (by omega) (ih h.2)

theorem Memory.wfFrom_append {size mid : Nat} {n : Memory α} (hn : Memory.wfFrom size mid n = true) {m : Memory α} :
    ∀ {lo : Nat}, lo ≤ mid → (∀ c ∈ m, c.1 < mid) → Memory.wfFrom size lo m = true →
      Memory.wfFrom size lo (m ++ n) = true := by
  induction m with
  | nil => intro lo hlo _ _; exact Memory.wfFrom_mono hlo hn
  | cons c m ih =>
    intro lo hlo hb h
    obtain ⟨k, v⟩ := c
    simp only [Memory.wfFrom, Bool.and_eq_true, decide_eq_true_eq, List.cons_append] at h ⊢
    have hk : k < mid := hb (k, v) (by simp)
    exact ⟨h.1, ih (by omega) (fun c hc => hb c (by simp [hc])) h.2⟩

theorem Memory.wfFrom_run {size : Nat} (vs : List α) : ∀ {a : Nat}, a + vs.length ≤ size →
    Memory.wfFrom size a (Memory.run a vs) = true := by
  induction vs with
  | nil => intro a _; rfl
  | cons v vs ih =>
    intro a h
    simp only [List.length_cons] at h
    simp only [Memory.run, Memory.wfFrom, Bool.and_eq_true, decide_eq_true_eq]
    exact ⟨⟨Nat.le_refl _, by omega⟩, ih (by omega)⟩

theorem Memory.wfFrom_of_ge {size : Nat} {m : Memory α} {lo lo' : Nat} (h : Memory.wfFrom size lo m = true)
    (hb : ∀ c ∈ m, lo' ≤ c.1) : Memory.wfFrom size lo' m = true := by
  cases m with
  | nil => rfl
  | cons c m =>
    obtain ⟨k, v⟩ := c
    simp only [Memory.wfFrom, Bool.and_eq_true, decide_eq_true_eq] at h ⊢
    exact ⟨⟨hb (k, v) (by simp), h.1.2⟩, h.2⟩

/-- MemWrite inside the space keeps the canonical form. -/
theorem Memory.wf_write {size : Nat} {m : Memory α} {a : Nat} {vs : List α} (hm : Memory.wf size m = true)
    (h : a + vs.length ≤ size) : Memory.wf size (Memory.write m a vs) = true := by
  unfold Memory.wf Memory.write at *
  rw [List.append_assoc]
  refine Memory.wfFrom_append (mid := a) ?_ (Nat.zero_le _) ?_ (Memory.wfFrom_filter _ hm)
  · refine Memory.wfFrom_append (mid := a + vs.length) ?_ (by omega) (fun c hc => (Memory.mem_run hc).2)
      (Memory.wfFrom_run vs h)
    exact Memory.wfFrom_of_ge (Memory.wfFrom_filter _ hm) fun c hc => by
      simpa using (List.mem_filter.1 hc).2
  · intro c hc; simpa using (List.mem_filter.1 hc).2

/-- Nothing listed is canonical. -/
@[simp] theorem Memory.wf_nil (size : Nat) : Memory.wf size ([] : Memory α) = true := rfl

/-! ## Which indices are listed -/

theorem Memory.keys_run (vs : List α) : ∀ a : Nat,
    (Memory.run a vs).map Prod.fst = List.range' a vs.length := by
  induction vs with
  | nil => intro a; rfl
  | cons v vs ih => intro a; simp [Memory.run, ih, List.range'_succ]

/-- Where exactly the first `n` indices are listed, an append at `n` lists exactly the first `n + length`. -/
theorem Memory.keys_write_end {m : Memory α} {n : Nat} (hm : m.map Prod.fst = List.range n) (vs : List α) :
    (Memory.write m n vs).map Prod.fst = List.range (n + vs.length) := by
  have hb : ∀ c ∈ m, c.1 < n := fun c hc => by
    have : c.1 ∈ m.map Prod.fst := List.mem_map_of_mem hc
    simpa [hm] using this
  have k1 : m.filter (fun c => decide (c.1 < n)) = m := List.filter_eq_self.2 fun c hc => by simpa using hb c hc
  have k2 : m.filter (fun c => decide (n + vs.length ≤ c.1)) = [] := List.filter_eq_nil_iff.2 fun c hc => by
    have := hb c hc
    simp only [decide_eq_true_eq]
    omega
  unfold Memory.write
  rw [k1, k2, List.append_nil, List.map_append, hm, Memory.keys_run, List.range_eq_range', List.range_eq_range']
  simpa using (List.range'_append (s := 0) (m := n) (n := vs.length) (step := 1))

end Sys2Proof.Machine
end

