-- ==== Sys2Proof/Laws/State.lean ====
section
/-!
SUPPORT. Sys2Proof/Laws/State.lean: what each update of the state leaves in each field, once, so that no proof
unfolds a record update. The three reads of one element are followed through the updates that do not touch them.
-/

namespace Sys2Proof.Machine

/-! ## `setDir` -/

@[simp] theorem State.setDir_dir (s : State) (d : Dir) : (s.setDir d).dir = d := rfl
@[simp] theorem State.setDir_emitPerUnit (s : State) (d : Dir) : (s.setDir d).emitPerUnit = s.emitPerUnit := rfl
@[simp] theorem State.setDir_life (s : State) (d : Dir) : (s.setDir d).life = s.life := rfl
@[simp] theorem State.setDir_phase (s : State) (d : Dir) : (s.setDir d).phase = s.phase := rfl
@[simp] theorem State.setDir_handle (s : State) (d : Dir) : (s.setDir d).handle = s.handle := rfl
@[simp] theorem State.setDir_sb (s : State) (d : Dir) : (s.setDir d).sb = s.sb := rfl
@[simp] theorem State.setDir_samples (s : State) (d : Dir) : (s.setDir d).samples = s.samples := rfl
@[simp] theorem State.setDir_datalen (s : State) (d : Dir) : (s.setDir d).datalen = s.datalen := rfl
@[simp] theorem State.setDir_w (s : State) (d : Dir) : (s.setDir d).w = s.w := rfl
@[simp] theorem State.setDir_ob (s : State) (d : Dir) : (s.setDir d).ob = s.ob := rfl
@[simp] theorem State.setDir_busy (s : State) (d : Dir) : (s.setDir d).busy = s.busy := rfl
@[simp] theorem State.setDir_inbox (s : State) (d : Dir) : (s.setDir d).inbox = s.inbox := rfl
@[simp] theorem State.setDir_resetLine (s : State) (d : Dir) : (s.setDir d).resetLine = s.resetLine := rfl
@[simp] theorem State.setDir_ret (s : State) (d : Dir) : (s.setDir d).ret = s.ret := rfl
@[simp] theorem State.setDir_chain (s : State) (d : Dir) : (s.setDir d).chain = s.chain := rfl
@[simp] theorem State.setDir_log (s : State) (d : Dir) : (s.setDir d).log = s.log := rfl
@[simp] theorem State.setDir_engine (s : State) (d : Dir) : (s.setDir d).engine = s.engine := rfl
@[simp] theorem State.setDir_draws (s : State) (d : Dir) : (s.setDir d).draws = s.draws := rfl
@[simp] theorem State.setDir_epoch (s : State) (d : Dir) : (s.setDir d).epoch = s.epoch := rfl
@[simp] theorem State.setDir_stageEpoch (s : State) (d : Dir) : (s.setDir d).stageEpoch = s.stageEpoch := rfl
@[simp] theorem State.setDir_sampleAt (s : State) (d : Dir) (i : Nat) : (s.setDir d).sampleAt i = s.sampleAt i := rfl
@[simp] theorem State.setDir_obAt (s : State) (d : Dir) (i : Nat) : (s.setDir d).obAt i = s.obAt i := rfl
@[simp] theorem State.setDir_wAt (s : State) (d : Dir) (i : Nat) : (s.setDir d).wAt i = s.wAt i := rfl

/-! ## `setLife` -/

@[simp] theorem State.setLife_dir (s : State) (l : Life) : (s.setLife l).dir = s.dir := rfl
@[simp] theorem State.setLife_emitPerUnit (s : State) (l : Life) : (s.setLife l).emitPerUnit = s.emitPerUnit := rfl
@[simp] theorem State.setLife_life (s : State) (l : Life) : (s.setLife l).life = l := rfl
@[simp] theorem State.setLife_phase (s : State) (l : Life) : (s.setLife l).phase = s.phase := rfl
@[simp] theorem State.setLife_handle (s : State) (l : Life) : (s.setLife l).handle = s.handle := rfl
@[simp] theorem State.setLife_sb (s : State) (l : Life) : (s.setLife l).sb = s.sb := rfl
@[simp] theorem State.setLife_samples (s : State) (l : Life) : (s.setLife l).samples = s.samples := rfl
@[simp] theorem State.setLife_datalen (s : State) (l : Life) : (s.setLife l).datalen = s.datalen := rfl
@[simp] theorem State.setLife_w (s : State) (l : Life) : (s.setLife l).w = s.w := rfl
@[simp] theorem State.setLife_ob (s : State) (l : Life) : (s.setLife l).ob = s.ob := rfl
@[simp] theorem State.setLife_busy (s : State) (l : Life) : (s.setLife l).busy = s.busy := rfl
@[simp] theorem State.setLife_inbox (s : State) (l : Life) : (s.setLife l).inbox = s.inbox := rfl
@[simp] theorem State.setLife_resetLine (s : State) (l : Life) : (s.setLife l).resetLine = s.resetLine := rfl
@[simp] theorem State.setLife_ret (s : State) (l : Life) : (s.setLife l).ret = s.ret := rfl
@[simp] theorem State.setLife_chain (s : State) (l : Life) : (s.setLife l).chain = s.chain := rfl
@[simp] theorem State.setLife_log (s : State) (l : Life) : (s.setLife l).log = s.log := rfl
@[simp] theorem State.setLife_engine (s : State) (l : Life) : (s.setLife l).engine = s.engine := rfl
@[simp] theorem State.setLife_draws (s : State) (l : Life) : (s.setLife l).draws = s.draws := rfl
@[simp] theorem State.setLife_epoch (s : State) (l : Life) : (s.setLife l).epoch = s.epoch := rfl
@[simp] theorem State.setLife_stageEpoch (s : State) (l : Life) : (s.setLife l).stageEpoch = s.stageEpoch := rfl
@[simp] theorem State.setLife_sampleAt (s : State) (l : Life) (i : Nat) : (s.setLife l).sampleAt i = s.sampleAt i := rfl
@[simp] theorem State.setLife_obAt (s : State) (l : Life) (i : Nat) : (s.setLife l).obAt i = s.obAt i := rfl
@[simp] theorem State.setLife_wAt (s : State) (l : Life) (i : Nat) : (s.setLife l).wAt i = s.wAt i := rfl

/-! ## `setPhase` -/

@[simp] theorem State.setPhase_dir (s : State) (p : Phase) : (s.setPhase p).dir = s.dir := rfl
@[simp] theorem State.setPhase_emitPerUnit (s : State) (p : Phase) : (s.setPhase p).emitPerUnit = s.emitPerUnit := rfl
@[simp] theorem State.setPhase_life (s : State) (p : Phase) : (s.setPhase p).life = s.life := rfl
@[simp] theorem State.setPhase_phase (s : State) (p : Phase) : (s.setPhase p).phase = p := rfl
@[simp] theorem State.setPhase_handle (s : State) (p : Phase) : (s.setPhase p).handle = s.handle := rfl
@[simp] theorem State.setPhase_sb (s : State) (p : Phase) : (s.setPhase p).sb = s.sb := rfl
@[simp] theorem State.setPhase_samples (s : State) (p : Phase) : (s.setPhase p).samples = s.samples := rfl
@[simp] theorem State.setPhase_datalen (s : State) (p : Phase) : (s.setPhase p).datalen = s.datalen := rfl
@[simp] theorem State.setPhase_w (s : State) (p : Phase) : (s.setPhase p).w = s.w := rfl
@[simp] theorem State.setPhase_ob (s : State) (p : Phase) : (s.setPhase p).ob = s.ob := rfl
@[simp] theorem State.setPhase_busy (s : State) (p : Phase) : (s.setPhase p).busy = s.busy := rfl
@[simp] theorem State.setPhase_inbox (s : State) (p : Phase) : (s.setPhase p).inbox = s.inbox := rfl
@[simp] theorem State.setPhase_resetLine (s : State) (p : Phase) : (s.setPhase p).resetLine = s.resetLine := rfl
@[simp] theorem State.setPhase_ret (s : State) (p : Phase) : (s.setPhase p).ret = s.ret := rfl
@[simp] theorem State.setPhase_chain (s : State) (p : Phase) : (s.setPhase p).chain = s.chain := rfl
@[simp] theorem State.setPhase_log (s : State) (p : Phase) : (s.setPhase p).log = s.log := rfl
@[simp] theorem State.setPhase_engine (s : State) (p : Phase) : (s.setPhase p).engine = s.engine := rfl
@[simp] theorem State.setPhase_draws (s : State) (p : Phase) : (s.setPhase p).draws = s.draws := rfl
@[simp] theorem State.setPhase_epoch (s : State) (p : Phase) : (s.setPhase p).epoch = s.epoch := rfl
@[simp] theorem State.setPhase_stageEpoch (s : State) (p : Phase) : (s.setPhase p).stageEpoch = s.stageEpoch := rfl
@[simp] theorem State.setPhase_sampleAt (s : State) (p : Phase) (i : Nat) : (s.setPhase p).sampleAt i = s.sampleAt i := rfl
@[simp] theorem State.setPhase_obAt (s : State) (p : Phase) (i : Nat) : (s.setPhase p).obAt i = s.obAt i := rfl
@[simp] theorem State.setPhase_wAt (s : State) (p : Phase) (i : Nat) : (s.setPhase p).wAt i = s.wAt i := rfl

/-! ## `setHandle` -/

@[simp] theorem State.setHandle_dir (s : State) (h : Option Handle) : (s.setHandle h).dir = s.dir := rfl
@[simp] theorem State.setHandle_emitPerUnit (s : State) (h : Option Handle) : (s.setHandle h).emitPerUnit = s.emitPerUnit := rfl
@[simp] theorem State.setHandle_life (s : State) (h : Option Handle) : (s.setHandle h).life = s.life := rfl
@[simp] theorem State.setHandle_phase (s : State) (h : Option Handle) : (s.setHandle h).phase = s.phase := rfl
@[simp] theorem State.setHandle_handle (s : State) (h : Option Handle) : (s.setHandle h).handle = h := rfl
@[simp] theorem State.setHandle_sb (s : State) (h : Option Handle) : (s.setHandle h).sb = s.sb := rfl
@[simp] theorem State.setHandle_samples (s : State) (h : Option Handle) : (s.setHandle h).samples = s.samples := rfl
@[simp] theorem State.setHandle_datalen (s : State) (h : Option Handle) : (s.setHandle h).datalen = s.datalen := rfl
@[simp] theorem State.setHandle_w (s : State) (h : Option Handle) : (s.setHandle h).w = s.w := rfl
@[simp] theorem State.setHandle_ob (s : State) (h : Option Handle) : (s.setHandle h).ob = s.ob := rfl
@[simp] theorem State.setHandle_busy (s : State) (h : Option Handle) : (s.setHandle h).busy = s.busy := rfl
@[simp] theorem State.setHandle_inbox (s : State) (h : Option Handle) : (s.setHandle h).inbox = s.inbox := rfl
@[simp] theorem State.setHandle_resetLine (s : State) (h : Option Handle) : (s.setHandle h).resetLine = s.resetLine := rfl
@[simp] theorem State.setHandle_ret (s : State) (h : Option Handle) : (s.setHandle h).ret = s.ret := rfl
@[simp] theorem State.setHandle_chain (s : State) (h : Option Handle) : (s.setHandle h).chain = s.chain := rfl
@[simp] theorem State.setHandle_log (s : State) (h : Option Handle) : (s.setHandle h).log = s.log := rfl
@[simp] theorem State.setHandle_engine (s : State) (h : Option Handle) : (s.setHandle h).engine = s.engine := rfl
@[simp] theorem State.setHandle_draws (s : State) (h : Option Handle) : (s.setHandle h).draws = s.draws := rfl
@[simp] theorem State.setHandle_epoch (s : State) (h : Option Handle) : (s.setHandle h).epoch = s.epoch := rfl
@[simp] theorem State.setHandle_stageEpoch (s : State) (h : Option Handle) : (s.setHandle h).stageEpoch = s.stageEpoch := rfl
@[simp] theorem State.setHandle_sampleAt (s : State) (h : Option Handle) (i : Nat) : (s.setHandle h).sampleAt i = s.sampleAt i := rfl
@[simp] theorem State.setHandle_obAt (s : State) (h : Option Handle) (i : Nat) : (s.setHandle h).obAt i = s.obAt i := rfl
@[simp] theorem State.setHandle_wAt (s : State) (h : Option Handle) (i : Nat) : (s.setHandle h).wAt i = s.wAt i := rfl

/-! ## `setSb` -/

@[simp] theorem State.setSb_dir (s : State) (m : Memory Sample) : (s.setSb m).dir = s.dir := rfl
@[simp] theorem State.setSb_emitPerUnit (s : State) (m : Memory Sample) : (s.setSb m).emitPerUnit = s.emitPerUnit := rfl
@[simp] theorem State.setSb_life (s : State) (m : Memory Sample) : (s.setSb m).life = s.life := rfl
@[simp] theorem State.setSb_phase (s : State) (m : Memory Sample) : (s.setSb m).phase = s.phase := rfl
@[simp] theorem State.setSb_handle (s : State) (m : Memory Sample) : (s.setSb m).handle = s.handle := rfl
@[simp] theorem State.setSb_sb (s : State) (m : Memory Sample) : (s.setSb m).sb = m := rfl
@[simp] theorem State.setSb_samples (s : State) (m : Memory Sample) : (s.setSb m).samples = s.samples := rfl
@[simp] theorem State.setSb_datalen (s : State) (m : Memory Sample) : (s.setSb m).datalen = s.datalen := rfl
@[simp] theorem State.setSb_w (s : State) (m : Memory Sample) : (s.setSb m).w = s.w := rfl
@[simp] theorem State.setSb_ob (s : State) (m : Memory Sample) : (s.setSb m).ob = s.ob := rfl
@[simp] theorem State.setSb_busy (s : State) (m : Memory Sample) : (s.setSb m).busy = s.busy := rfl
@[simp] theorem State.setSb_inbox (s : State) (m : Memory Sample) : (s.setSb m).inbox = s.inbox := rfl
@[simp] theorem State.setSb_resetLine (s : State) (m : Memory Sample) : (s.setSb m).resetLine = s.resetLine := rfl
@[simp] theorem State.setSb_ret (s : State) (m : Memory Sample) : (s.setSb m).ret = s.ret := rfl
@[simp] theorem State.setSb_chain (s : State) (m : Memory Sample) : (s.setSb m).chain = s.chain := rfl
@[simp] theorem State.setSb_log (s : State) (m : Memory Sample) : (s.setSb m).log = s.log := rfl
@[simp] theorem State.setSb_engine (s : State) (m : Memory Sample) : (s.setSb m).engine = s.engine := rfl
@[simp] theorem State.setSb_draws (s : State) (m : Memory Sample) : (s.setSb m).draws = s.draws := rfl
@[simp] theorem State.setSb_epoch (s : State) (m : Memory Sample) : (s.setSb m).epoch = s.epoch := rfl
@[simp] theorem State.setSb_stageEpoch (s : State) (m : Memory Sample) : (s.setSb m).stageEpoch = s.stageEpoch := rfl
@[simp] theorem State.setSb_obAt (s : State) (m : Memory Sample) (i : Nat) : (s.setSb m).obAt i = s.obAt i := rfl
@[simp] theorem State.setSb_wAt (s : State) (m : Memory Sample) (i : Nat) : (s.setSb m).wAt i = s.wAt i := rfl

/-! ## `setW` -/

@[simp] theorem State.setW_dir (s : State) (m : List Host.Cell) : (s.setW m).dir = s.dir := rfl
@[simp] theorem State.setW_emitPerUnit (s : State) (m : List Host.Cell) : (s.setW m).emitPerUnit = s.emitPerUnit := rfl
@[simp] theorem State.setW_life (s : State) (m : List Host.Cell) : (s.setW m).life = s.life := rfl
@[simp] theorem State.setW_phase (s : State) (m : List Host.Cell) : (s.setW m).phase = s.phase := rfl
@[simp] theorem State.setW_handle (s : State) (m : List Host.Cell) : (s.setW m).handle = s.handle := rfl
@[simp] theorem State.setW_sb (s : State) (m : List Host.Cell) : (s.setW m).sb = s.sb := rfl
@[simp] theorem State.setW_samples (s : State) (m : List Host.Cell) : (s.setW m).samples = s.samples := rfl
@[simp] theorem State.setW_datalen (s : State) (m : List Host.Cell) : (s.setW m).datalen = s.datalen := rfl
@[simp] theorem State.setW_w (s : State) (m : List Host.Cell) : (s.setW m).w = m := rfl
@[simp] theorem State.setW_ob (s : State) (m : List Host.Cell) : (s.setW m).ob = s.ob := rfl
@[simp] theorem State.setW_busy (s : State) (m : List Host.Cell) : (s.setW m).busy = s.busy := rfl
@[simp] theorem State.setW_inbox (s : State) (m : List Host.Cell) : (s.setW m).inbox = s.inbox := rfl
@[simp] theorem State.setW_resetLine (s : State) (m : List Host.Cell) : (s.setW m).resetLine = s.resetLine := rfl
@[simp] theorem State.setW_ret (s : State) (m : List Host.Cell) : (s.setW m).ret = s.ret := rfl
@[simp] theorem State.setW_chain (s : State) (m : List Host.Cell) : (s.setW m).chain = s.chain := rfl
@[simp] theorem State.setW_log (s : State) (m : List Host.Cell) : (s.setW m).log = s.log := rfl
@[simp] theorem State.setW_engine (s : State) (m : List Host.Cell) : (s.setW m).engine = s.engine := rfl
@[simp] theorem State.setW_draws (s : State) (m : List Host.Cell) : (s.setW m).draws = s.draws := rfl
@[simp] theorem State.setW_epoch (s : State) (m : List Host.Cell) : (s.setW m).epoch = s.epoch := rfl
@[simp] theorem State.setW_stageEpoch (s : State) (m : List Host.Cell) : (s.setW m).stageEpoch = s.stageEpoch := rfl
@[simp] theorem State.setW_sampleAt (s : State) (m : List Host.Cell) (i : Nat) : (s.setW m).sampleAt i = s.sampleAt i := rfl
@[simp] theorem State.setW_obAt (s : State) (m : List Host.Cell) (i : Nat) : (s.setW m).obAt i = s.obAt i := rfl

/-! ## `setOb` -/

@[simp] theorem State.setOb_dir (s : State) (m : List Host.Cell) : (s.setOb m).dir = s.dir := rfl
@[simp] theorem State.setOb_emitPerUnit (s : State) (m : List Host.Cell) : (s.setOb m).emitPerUnit = s.emitPerUnit := rfl
@[simp] theorem State.setOb_life (s : State) (m : List Host.Cell) : (s.setOb m).life = s.life := rfl
@[simp] theorem State.setOb_phase (s : State) (m : List Host.Cell) : (s.setOb m).phase = s.phase := rfl
@[simp] theorem State.setOb_handle (s : State) (m : List Host.Cell) : (s.setOb m).handle = s.handle := rfl
@[simp] theorem State.setOb_sb (s : State) (m : List Host.Cell) : (s.setOb m).sb = s.sb := rfl
@[simp] theorem State.setOb_samples (s : State) (m : List Host.Cell) : (s.setOb m).samples = s.samples := rfl
@[simp] theorem State.setOb_datalen (s : State) (m : List Host.Cell) : (s.setOb m).datalen = s.datalen := rfl
@[simp] theorem State.setOb_w (s : State) (m : List Host.Cell) : (s.setOb m).w = s.w := rfl
@[simp] theorem State.setOb_ob (s : State) (m : List Host.Cell) : (s.setOb m).ob = m := rfl
@[simp] theorem State.setOb_busy (s : State) (m : List Host.Cell) : (s.setOb m).busy = s.busy := rfl
@[simp] theorem State.setOb_inbox (s : State) (m : List Host.Cell) : (s.setOb m).inbox = s.inbox := rfl
@[simp] theorem State.setOb_resetLine (s : State) (m : List Host.Cell) : (s.setOb m).resetLine = s.resetLine := rfl
@[simp] theorem State.setOb_ret (s : State) (m : List Host.Cell) : (s.setOb m).ret = s.ret := rfl
@[simp] theorem State.setOb_chain (s : State) (m : List Host.Cell) : (s.setOb m).chain = s.chain := rfl
@[simp] theorem State.setOb_log (s : State) (m : List Host.Cell) : (s.setOb m).log = s.log := rfl
@[simp] theorem State.setOb_engine (s : State) (m : List Host.Cell) : (s.setOb m).engine = s.engine := rfl
@[simp] theorem State.setOb_draws (s : State) (m : List Host.Cell) : (s.setOb m).draws = s.draws := rfl
@[simp] theorem State.setOb_epoch (s : State) (m : List Host.Cell) : (s.setOb m).epoch = s.epoch := rfl
@[simp] theorem State.setOb_stageEpoch (s : State) (m : List Host.Cell) : (s.setOb m).stageEpoch = s.stageEpoch := rfl
@[simp] theorem State.setOb_sampleAt (s : State) (m : List Host.Cell) (i : Nat) : (s.setOb m).sampleAt i = s.sampleAt i := rfl
@[simp] theorem State.setOb_wAt (s : State) (m : List Host.Cell) (i : Nat) : (s.setOb m).wAt i = s.wAt i := rfl

/-! ## `setCounts` -/

@[simp] theorem State.setCounts_dir (s : State) (n l : Nat) : (s.setCounts n l).dir = s.dir := rfl
@[simp] theorem State.setCounts_emitPerUnit (s : State) (n l : Nat) : (s.setCounts n l).emitPerUnit = s.emitPerUnit := rfl
@[simp] theorem State.setCounts_life (s : State) (n l : Nat) : (s.setCounts n l).life = s.life := rfl
@[simp] theorem State.setCounts_phase (s : State) (n l : Nat) : (s.setCounts n l).phase = s.phase := rfl
@[simp] theorem State.setCounts_handle (s : State) (n l : Nat) : (s.setCounts n l).handle = s.handle := rfl
@[simp] theorem State.setCounts_sb (s : State) (n l : Nat) : (s.setCounts n l).sb = s.sb := rfl
@[simp] theorem State.setCounts_samples (s : State) (n l : Nat) : (s.setCounts n l).samples = n := rfl
@[simp] theorem State.setCounts_datalen (s : State) (n l : Nat) : (s.setCounts n l).datalen = l := rfl
@[simp] theorem State.setCounts_w (s : State) (n l : Nat) : (s.setCounts n l).w = s.w := rfl
@[simp] theorem State.setCounts_ob (s : State) (n l : Nat) : (s.setCounts n l).ob = s.ob := rfl
@[simp] theorem State.setCounts_busy (s : State) (n l : Nat) : (s.setCounts n l).busy = s.busy := rfl
@[simp] theorem State.setCounts_inbox (s : State) (n l : Nat) : (s.setCounts n l).inbox = s.inbox := rfl
@[simp] theorem State.setCounts_resetLine (s : State) (n l : Nat) : (s.setCounts n l).resetLine = s.resetLine := rfl
@[simp] theorem State.setCounts_ret (s : State) (n l : Nat) : (s.setCounts n l).ret = s.ret := rfl
@[simp] theorem State.setCounts_chain (s : State) (n l : Nat) : (s.setCounts n l).chain = s.chain := rfl
@[simp] theorem State.setCounts_log (s : State) (n l : Nat) : (s.setCounts n l).log = s.log := rfl
@[simp] theorem State.setCounts_engine (s : State) (n l : Nat) : (s.setCounts n l).engine = s.engine := rfl
@[simp] theorem State.setCounts_draws (s : State) (n l : Nat) : (s.setCounts n l).draws = s.draws := rfl
@[simp] theorem State.setCounts_epoch (s : State) (n l : Nat) : (s.setCounts n l).epoch = s.epoch := rfl
@[simp] theorem State.setCounts_stageEpoch (s : State) (n l : Nat) : (s.setCounts n l).stageEpoch = s.stageEpoch := rfl
@[simp] theorem State.setCounts_sampleAt (s : State) (n l : Nat) (i : Nat) : (s.setCounts n l).sampleAt i = s.sampleAt i := rfl
@[simp] theorem State.setCounts_obAt (s : State) (n l : Nat) (i : Nat) : (s.setCounts n l).obAt i = s.obAt i := rfl
@[simp] theorem State.setCounts_wAt (s : State) (n l : Nat) (i : Nat) : (s.setCounts n l).wAt i = s.wAt i := rfl

/-! ## `setInbox` -/

@[simp] theorem State.setInbox_dir (s : State) (q : List Command) : (s.setInbox q).dir = s.dir := rfl
@[simp] theorem State.setInbox_emitPerUnit (s : State) (q : List Command) : (s.setInbox q).emitPerUnit = s.emitPerUnit := rfl
@[simp] theorem State.setInbox_life (s : State) (q : List Command) : (s.setInbox q).life = s.life := rfl
@[simp] theorem State.setInbox_phase (s : State) (q : List Command) : (s.setInbox q).phase = s.phase := rfl
@[simp] theorem State.setInbox_handle (s : State) (q : List Command) : (s.setInbox q).handle = s.handle := rfl
@[simp] theorem State.setInbox_sb (s : State) (q : List Command) : (s.setInbox q).sb = s.sb := rfl
@[simp] theorem State.setInbox_samples (s : State) (q : List Command) : (s.setInbox q).samples = s.samples := rfl
@[simp] theorem State.setInbox_datalen (s : State) (q : List Command) : (s.setInbox q).datalen = s.datalen := rfl
@[simp] theorem State.setInbox_w (s : State) (q : List Command) : (s.setInbox q).w = s.w := rfl
@[simp] theorem State.setInbox_ob (s : State) (q : List Command) : (s.setInbox q).ob = s.ob := rfl
@[simp] theorem State.setInbox_busy (s : State) (q : List Command) : (s.setInbox q).busy = s.busy := rfl
@[simp] theorem State.setInbox_inbox (s : State) (q : List Command) : (s.setInbox q).inbox = q := rfl
@[simp] theorem State.setInbox_resetLine (s : State) (q : List Command) : (s.setInbox q).resetLine = s.resetLine := rfl
@[simp] theorem State.setInbox_ret (s : State) (q : List Command) : (s.setInbox q).ret = s.ret := rfl
@[simp] theorem State.setInbox_chain (s : State) (q : List Command) : (s.setInbox q).chain = s.chain := rfl
@[simp] theorem State.setInbox_log (s : State) (q : List Command) : (s.setInbox q).log = s.log := rfl
@[simp] theorem State.setInbox_engine (s : State) (q : List Command) : (s.setInbox q).engine = s.engine := rfl
@[simp] theorem State.setInbox_draws (s : State) (q : List Command) : (s.setInbox q).draws = s.draws := rfl
@[simp] theorem State.setInbox_epoch (s : State) (q : List Command) : (s.setInbox q).epoch = s.epoch := rfl
@[simp] theorem State.setInbox_stageEpoch (s : State) (q : List Command) : (s.setInbox q).stageEpoch = s.stageEpoch := rfl
@[simp] theorem State.setInbox_sampleAt (s : State) (q : List Command) (i : Nat) : (s.setInbox q).sampleAt i = s.sampleAt i := rfl
@[simp] theorem State.setInbox_obAt (s : State) (q : List Command) (i : Nat) : (s.setInbox q).obAt i = s.obAt i := rfl
@[simp] theorem State.setInbox_wAt (s : State) (q : List Command) (i : Nat) : (s.setInbox q).wAt i = s.wAt i := rfl

/-! ## `setResetLine` -/

@[simp] theorem State.setResetLine_dir (s : State) (b : Bool) : (s.setResetLine b).dir = s.dir := rfl
@[simp] theorem State.setResetLine_emitPerUnit (s : State) (b : Bool) : (s.setResetLine b).emitPerUnit = s.emitPerUnit := rfl
@[simp] theorem State.setResetLine_life (s : State) (b : Bool) : (s.setResetLine b).life = s.life := rfl
@[simp] theorem State.setResetLine_phase (s : State) (b : Bool) : (s.setResetLine b).phase = s.phase := rfl
@[simp] theorem State.setResetLine_handle (s : State) (b : Bool) : (s.setResetLine b).handle = s.handle := rfl
@[simp] theorem State.setResetLine_sb (s : State) (b : Bool) : (s.setResetLine b).sb = s.sb := rfl
@[simp] theorem State.setResetLine_samples (s : State) (b : Bool) : (s.setResetLine b).samples = s.samples := rfl
@[simp] theorem State.setResetLine_datalen (s : State) (b : Bool) : (s.setResetLine b).datalen = s.datalen := rfl
@[simp] theorem State.setResetLine_w (s : State) (b : Bool) : (s.setResetLine b).w = s.w := rfl
@[simp] theorem State.setResetLine_ob (s : State) (b : Bool) : (s.setResetLine b).ob = s.ob := rfl
@[simp] theorem State.setResetLine_busy (s : State) (b : Bool) : (s.setResetLine b).busy = s.busy := rfl
@[simp] theorem State.setResetLine_inbox (s : State) (b : Bool) : (s.setResetLine b).inbox = s.inbox := rfl
@[simp] theorem State.setResetLine_resetLine (s : State) (b : Bool) : (s.setResetLine b).resetLine = b := rfl
@[simp] theorem State.setResetLine_ret (s : State) (b : Bool) : (s.setResetLine b).ret = s.ret := rfl
@[simp] theorem State.setResetLine_chain (s : State) (b : Bool) : (s.setResetLine b).chain = s.chain := rfl
@[simp] theorem State.setResetLine_log (s : State) (b : Bool) : (s.setResetLine b).log = s.log := rfl
@[simp] theorem State.setResetLine_engine (s : State) (b : Bool) : (s.setResetLine b).engine = s.engine := rfl
@[simp] theorem State.setResetLine_draws (s : State) (b : Bool) : (s.setResetLine b).draws = s.draws := rfl
@[simp] theorem State.setResetLine_epoch (s : State) (b : Bool) : (s.setResetLine b).epoch = s.epoch := rfl
@[simp] theorem State.setResetLine_stageEpoch (s : State) (b : Bool) : (s.setResetLine b).stageEpoch = s.stageEpoch := rfl
@[simp] theorem State.setResetLine_sampleAt (s : State) (b : Bool) (i : Nat) : (s.setResetLine b).sampleAt i = s.sampleAt i := rfl
@[simp] theorem State.setResetLine_obAt (s : State) (b : Bool) (i : Nat) : (s.setResetLine b).obAt i = s.obAt i := rfl
@[simp] theorem State.setResetLine_wAt (s : State) (b : Bool) (i : Nat) : (s.setResetLine b).wAt i = s.wAt i := rfl

/-! ## `setEngine` -/

@[simp] theorem State.setEngine_dir (s : State) (e : EnginePort) : (s.setEngine e).dir = s.dir := rfl
@[simp] theorem State.setEngine_emitPerUnit (s : State) (e : EnginePort) : (s.setEngine e).emitPerUnit = s.emitPerUnit := rfl
@[simp] theorem State.setEngine_life (s : State) (e : EnginePort) : (s.setEngine e).life = s.life := rfl
@[simp] theorem State.setEngine_phase (s : State) (e : EnginePort) : (s.setEngine e).phase = s.phase := rfl
@[simp] theorem State.setEngine_handle (s : State) (e : EnginePort) : (s.setEngine e).handle = s.handle := rfl
@[simp] theorem State.setEngine_sb (s : State) (e : EnginePort) : (s.setEngine e).sb = s.sb := rfl
@[simp] theorem State.setEngine_samples (s : State) (e : EnginePort) : (s.setEngine e).samples = s.samples := rfl
@[simp] theorem State.setEngine_datalen (s : State) (e : EnginePort) : (s.setEngine e).datalen = s.datalen := rfl
@[simp] theorem State.setEngine_w (s : State) (e : EnginePort) : (s.setEngine e).w = s.w := rfl
@[simp] theorem State.setEngine_ob (s : State) (e : EnginePort) : (s.setEngine e).ob = s.ob := rfl
@[simp] theorem State.setEngine_busy (s : State) (e : EnginePort) : (s.setEngine e).busy = s.busy := rfl
@[simp] theorem State.setEngine_inbox (s : State) (e : EnginePort) : (s.setEngine e).inbox = s.inbox := rfl
@[simp] theorem State.setEngine_resetLine (s : State) (e : EnginePort) : (s.setEngine e).resetLine = s.resetLine := rfl
@[simp] theorem State.setEngine_ret (s : State) (e : EnginePort) : (s.setEngine e).ret = s.ret := rfl
@[simp] theorem State.setEngine_chain (s : State) (e : EnginePort) : (s.setEngine e).chain = s.chain := rfl
@[simp] theorem State.setEngine_log (s : State) (e : EnginePort) : (s.setEngine e).log = s.log := rfl
@[simp] theorem State.setEngine_engine (s : State) (e : EnginePort) : (s.setEngine e).engine = e := rfl
@[simp] theorem State.setEngine_draws (s : State) (e : EnginePort) : (s.setEngine e).draws = s.draws := rfl
@[simp] theorem State.setEngine_epoch (s : State) (e : EnginePort) : (s.setEngine e).epoch = s.epoch := rfl
@[simp] theorem State.setEngine_stageEpoch (s : State) (e : EnginePort) : (s.setEngine e).stageEpoch = s.stageEpoch := rfl
@[simp] theorem State.setEngine_sampleAt (s : State) (e : EnginePort) (i : Nat) : (s.setEngine e).sampleAt i = s.sampleAt i := rfl
@[simp] theorem State.setEngine_obAt (s : State) (e : EnginePort) (i : Nat) : (s.setEngine e).obAt i = s.obAt i := rfl
@[simp] theorem State.setEngine_wAt (s : State) (e : EnginePort) (i : Nat) : (s.setEngine e).wAt i = s.wAt i := rfl

/-! ## `startOp` -/

@[simp] theorem State.startOp_dir (s : State) : s.startOp.dir = s.dir := rfl
@[simp] theorem State.startOp_emitPerUnit (s : State) : s.startOp.emitPerUnit = s.emitPerUnit := rfl
@[simp] theorem State.startOp_life (s : State) : s.startOp.life = s.life := rfl
@[simp] theorem State.startOp_phase (s : State) : s.startOp.phase = s.phase := rfl
@[simp] theorem State.startOp_handle (s : State) : s.startOp.handle = s.handle := rfl
@[simp] theorem State.startOp_sb (s : State) : s.startOp.sb = s.sb := rfl
@[simp] theorem State.startOp_samples (s : State) : s.startOp.samples = s.samples := rfl
@[simp] theorem State.startOp_datalen (s : State) : s.startOp.datalen = s.datalen := rfl
@[simp] theorem State.startOp_w (s : State) : s.startOp.w = s.w := rfl
@[simp] theorem State.startOp_ob (s : State) : s.startOp.ob = s.ob := rfl
@[simp] theorem State.startOp_busy (s : State) : s.startOp.busy = s.busy := rfl
@[simp] theorem State.startOp_inbox (s : State) : s.startOp.inbox = s.inbox := rfl
@[simp] theorem State.startOp_resetLine (s : State) : s.startOp.resetLine = s.resetLine := rfl
@[simp] theorem State.startOp_ret (s : State) : s.startOp.ret = none := rfl
@[simp] theorem State.startOp_chain (s : State) : s.startOp.chain = [] := rfl
@[simp] theorem State.startOp_log (s : State) : s.startOp.log = s.log := rfl
@[simp] theorem State.startOp_engine (s : State) : s.startOp.engine = s.engine := rfl
@[simp] theorem State.startOp_draws (s : State) : s.startOp.draws = s.draws := rfl
@[simp] theorem State.startOp_epoch (s : State) : s.startOp.epoch = s.epoch := rfl
@[simp] theorem State.startOp_stageEpoch (s : State) : s.startOp.stageEpoch = s.stageEpoch := rfl
@[simp] theorem State.startOp_sampleAt (s : State) (i : Nat) : s.startOp.sampleAt i = s.sampleAt i := rfl
@[simp] theorem State.startOp_obAt (s : State) (i : Nat) : s.startOp.obAt i = s.obAt i := rfl
@[simp] theorem State.startOp_wAt (s : State) (i : Nat) : s.startOp.wAt i = s.wAt i := rfl

/-! ## `finish` -/

@[simp] theorem State.finish_dir (s : State) (r : Return) : (s.finish r).dir = s.dir := rfl
@[simp] theorem State.finish_emitPerUnit (s : State) (r : Return) : (s.finish r).emitPerUnit = s.emitPerUnit := rfl
@[simp] theorem State.finish_life (s : State) (r : Return) : (s.finish r).life = s.life := rfl
@[simp] theorem State.finish_phase (s : State) (r : Return) : (s.finish r).phase = s.phase := rfl
@[simp] theorem State.finish_handle (s : State) (r : Return) : (s.finish r).handle = s.handle := rfl
@[simp] theorem State.finish_sb (s : State) (r : Return) : (s.finish r).sb = s.sb := rfl
@[simp] theorem State.finish_samples (s : State) (r : Return) : (s.finish r).samples = s.samples := rfl
@[simp] theorem State.finish_datalen (s : State) (r : Return) : (s.finish r).datalen = s.datalen := rfl
@[simp] theorem State.finish_w (s : State) (r : Return) : (s.finish r).w = s.w := rfl
@[simp] theorem State.finish_ob (s : State) (r : Return) : (s.finish r).ob = s.ob := rfl
@[simp] theorem State.finish_busy (s : State) (r : Return) : (s.finish r).busy = s.busy := rfl
@[simp] theorem State.finish_inbox (s : State) (r : Return) : (s.finish r).inbox = s.inbox := rfl
@[simp] theorem State.finish_resetLine (s : State) (r : Return) : (s.finish r).resetLine = s.resetLine := rfl
@[simp] theorem State.finish_ret (s : State) (r : Return) : (s.finish r).ret = some r := rfl
@[simp] theorem State.finish_chain (s : State) (r : Return) : (s.finish r).chain = s.chain := rfl
@[simp] theorem State.finish_log (s : State) (r : Return) : (s.finish r).log = s.log := rfl
@[simp] theorem State.finish_engine (s : State) (r : Return) : (s.finish r).engine = s.engine := rfl
@[simp] theorem State.finish_draws (s : State) (r : Return) : (s.finish r).draws = s.draws := rfl
@[simp] theorem State.finish_epoch (s : State) (r : Return) : (s.finish r).epoch = s.epoch := rfl
@[simp] theorem State.finish_stageEpoch (s : State) (r : Return) : (s.finish r).stageEpoch = s.stageEpoch := rfl
@[simp] theorem State.finish_sampleAt (s : State) (r : Return) (i : Nat) : (s.finish r).sampleAt i = s.sampleAt i := rfl
@[simp] theorem State.finish_obAt (s : State) (r : Return) (i : Nat) : (s.finish r).obAt i = s.obAt i := rfl
@[simp] theorem State.finish_wAt (s : State) (r : Return) (i : Nat) : (s.finish r).wAt i = s.wAt i := rfl

/-! ## `finishVoid` -/

@[simp] theorem State.finishVoid_dir (s : State) : s.finishVoid.dir = s.dir := rfl
@[simp] theorem State.finishVoid_emitPerUnit (s : State) : s.finishVoid.emitPerUnit = s.emitPerUnit := rfl
@[simp] theorem State.finishVoid_life (s : State) : s.finishVoid.life = s.life := rfl
@[simp] theorem State.finishVoid_phase (s : State) : s.finishVoid.phase = s.phase := rfl
@[simp] theorem State.finishVoid_handle (s : State) : s.finishVoid.handle = s.handle := rfl
@[simp] theorem State.finishVoid_sb (s : State) : s.finishVoid.sb = s.sb := rfl
@[simp] theorem State.finishVoid_samples (s : State) : s.finishVoid.samples = s.samples := rfl
@[simp] theorem State.finishVoid_datalen (s : State) : s.finishVoid.datalen = s.datalen := rfl
@[simp] theorem State.finishVoid_w (s : State) : s.finishVoid.w = s.w := rfl
@[simp] theorem State.finishVoid_ob (s : State) : s.finishVoid.ob = s.ob := rfl
@[simp] theorem State.finishVoid_busy (s : State) : s.finishVoid.busy = s.busy := rfl
@[simp] theorem State.finishVoid_inbox (s : State) : s.finishVoid.inbox = s.inbox := rfl
@[simp] theorem State.finishVoid_resetLine (s : State) : s.finishVoid.resetLine = s.resetLine := rfl
@[simp] theorem State.finishVoid_ret (s : State) : s.finishVoid.ret = none := rfl
@[simp] theorem State.finishVoid_chain (s : State) : s.finishVoid.chain = s.chain := rfl
@[simp] theorem State.finishVoid_log (s : State) : s.finishVoid.log = s.log := rfl
@[simp] theorem State.finishVoid_engine (s : State) : s.finishVoid.engine = s.engine := rfl
@[simp] theorem State.finishVoid_draws (s : State) : s.finishVoid.draws = s.draws := rfl
@[simp] theorem State.finishVoid_epoch (s : State) : s.finishVoid.epoch = s.epoch := rfl
@[simp] theorem State.finishVoid_stageEpoch (s : State) : s.finishVoid.stageEpoch = s.stageEpoch := rfl
@[simp] theorem State.finishVoid_sampleAt (s : State) (i : Nat) : s.finishVoid.sampleAt i = s.sampleAt i := rfl
@[simp] theorem State.finishVoid_obAt (s : State) (i : Nat) : s.finishVoid.obAt i = s.obAt i := rfl
@[simp] theorem State.finishVoid_wAt (s : State) (i : Nat) : s.finishVoid.wAt i = s.wAt i := rfl

/-! ## `hang` -/

@[simp] theorem State.hang_dir (s : State) : s.hang.dir = s.dir := rfl
@[simp] theorem State.hang_emitPerUnit (s : State) : s.hang.emitPerUnit = s.emitPerUnit := rfl
@[simp] theorem State.hang_life (s : State) : s.hang.life = s.life := rfl
@[simp] theorem State.hang_phase (s : State) : s.hang.phase = s.phase := rfl
@[simp] theorem State.hang_handle (s : State) : s.hang.handle = s.handle := rfl
@[simp] theorem State.hang_sb (s : State) : s.hang.sb = s.sb := rfl
@[simp] theorem State.hang_samples (s : State) : s.hang.samples = s.samples := rfl
@[simp] theorem State.hang_datalen (s : State) : s.hang.datalen = s.datalen := rfl
@[simp] theorem State.hang_w (s : State) : s.hang.w = s.w := rfl
@[simp] theorem State.hang_ob (s : State) : s.hang.ob = s.ob := rfl
@[simp] theorem State.hang_busy (s : State) : s.hang.busy = true := rfl
@[simp] theorem State.hang_inbox (s : State) : s.hang.inbox = s.inbox := rfl
@[simp] theorem State.hang_resetLine (s : State) : s.hang.resetLine = s.resetLine := rfl
@[simp] theorem State.hang_ret (s : State) : s.hang.ret = none := rfl
@[simp] theorem State.hang_chain (s : State) : s.hang.chain = s.chain := rfl
@[simp] theorem State.hang_log (s : State) : s.hang.log = s.log := rfl
@[simp] theorem State.hang_engine (s : State) : s.hang.engine = s.engine := rfl
@[simp] theorem State.hang_draws (s : State) : s.hang.draws = s.draws := rfl
@[simp] theorem State.hang_epoch (s : State) : s.hang.epoch = s.epoch := rfl
@[simp] theorem State.hang_stageEpoch (s : State) : s.hang.stageEpoch = s.stageEpoch := rfl
@[simp] theorem State.hang_sampleAt (s : State) (i : Nat) : s.hang.sampleAt i = s.sampleAt i := rfl
@[simp] theorem State.hang_obAt (s : State) (i : Nat) : s.hang.obAt i = s.obAt i := rfl
@[simp] theorem State.hang_wAt (s : State) (i : Nat) : s.hang.wAt i = s.wAt i := rfl

/-! ## `emit` -/

@[simp] theorem State.emit_dir (s : State) (f : OutFrame) : (s.emit f).dir = s.dir := rfl
@[simp] theorem State.emit_emitPerUnit (s : State) (f : OutFrame) : (s.emit f).emitPerUnit = s.emitPerUnit := rfl
@[simp] theorem State.emit_life (s : State) (f : OutFrame) : (s.emit f).life = s.life := rfl
@[simp] theorem State.emit_phase (s : State) (f : OutFrame) : (s.emit f).phase = s.phase := rfl
@[simp] theorem State.emit_handle (s : State) (f : OutFrame) : (s.emit f).handle = s.handle := rfl
@[simp] theorem State.emit_sb (s : State) (f : OutFrame) : (s.emit f).sb = s.sb := rfl
@[simp] theorem State.emit_samples (s : State) (f : OutFrame) : (s.emit f).samples = s.samples := rfl
@[simp] theorem State.emit_datalen (s : State) (f : OutFrame) : (s.emit f).datalen = s.datalen := rfl
@[simp] theorem State.emit_w (s : State) (f : OutFrame) : (s.emit f).w = s.w := rfl
@[simp] theorem State.emit_ob (s : State) (f : OutFrame) : (s.emit f).ob = s.ob := rfl
@[simp] theorem State.emit_busy (s : State) (f : OutFrame) : (s.emit f).busy = s.busy := rfl
@[simp] theorem State.emit_inbox (s : State) (f : OutFrame) : (s.emit f).inbox = s.inbox := rfl
@[simp] theorem State.emit_resetLine (s : State) (f : OutFrame) : (s.emit f).resetLine = s.resetLine := rfl
@[simp] theorem State.emit_ret (s : State) (f : OutFrame) : (s.emit f).ret = s.ret := rfl
@[simp] theorem State.emit_chain (s : State) (f : OutFrame) : (s.emit f).chain = s.chain ++ [f] := rfl
@[simp] theorem State.emit_log (s : State) (f : OutFrame) : (s.emit f).log = s.log := rfl
@[simp] theorem State.emit_engine (s : State) (f : OutFrame) : (s.emit f).engine = s.engine := rfl
@[simp] theorem State.emit_draws (s : State) (f : OutFrame) : (s.emit f).draws = s.draws := rfl
@[simp] theorem State.emit_epoch (s : State) (f : OutFrame) : (s.emit f).epoch = s.epoch := rfl
@[simp] theorem State.emit_stageEpoch (s : State) (f : OutFrame) : (s.emit f).stageEpoch = s.stageEpoch := rfl
@[simp] theorem State.emit_sampleAt (s : State) (f : OutFrame) (i : Nat) : (s.emit f).sampleAt i = s.sampleAt i := rfl
@[simp] theorem State.emit_obAt (s : State) (f : OutFrame) (i : Nat) : (s.emit f).obAt i = s.obAt i := rfl
@[simp] theorem State.emit_wAt (s : State) (f : OutFrame) (i : Nat) : (s.emit f).wAt i = s.wAt i := rfl

/-! ## `addLog` -/

@[simp] theorem State.addLog_dir (s : State) (e : LogEvent) : (s.addLog e).dir = s.dir := rfl
@[simp] theorem State.addLog_emitPerUnit (s : State) (e : LogEvent) : (s.addLog e).emitPerUnit = s.emitPerUnit := rfl
@[simp] theorem State.addLog_life (s : State) (e : LogEvent) : (s.addLog e).life = s.life := rfl
@[simp] theorem State.addLog_phase (s : State) (e : LogEvent) : (s.addLog e).phase = s.phase := rfl
@[simp] theorem State.addLog_handle (s : State) (e : LogEvent) : (s.addLog e).handle = s.handle := rfl
@[simp] theorem State.addLog_sb (s : State) (e : LogEvent) : (s.addLog e).sb = s.sb := rfl
@[simp] theorem State.addLog_samples (s : State) (e : LogEvent) : (s.addLog e).samples = s.samples := rfl
@[simp] theorem State.addLog_datalen (s : State) (e : LogEvent) : (s.addLog e).datalen = s.datalen := rfl
@[simp] theorem State.addLog_w (s : State) (e : LogEvent) : (s.addLog e).w = s.w := rfl
@[simp] theorem State.addLog_ob (s : State) (e : LogEvent) : (s.addLog e).ob = s.ob := rfl
@[simp] theorem State.addLog_busy (s : State) (e : LogEvent) : (s.addLog e).busy = s.busy := rfl
@[simp] theorem State.addLog_inbox (s : State) (e : LogEvent) : (s.addLog e).inbox = s.inbox := rfl
@[simp] theorem State.addLog_resetLine (s : State) (e : LogEvent) : (s.addLog e).resetLine = s.resetLine := rfl
@[simp] theorem State.addLog_ret (s : State) (e : LogEvent) : (s.addLog e).ret = s.ret := rfl
@[simp] theorem State.addLog_chain (s : State) (e : LogEvent) : (s.addLog e).chain = s.chain := rfl
@[simp] theorem State.addLog_log (s : State) (e : LogEvent) : (s.addLog e).log = s.log ++ [e] := rfl
@[simp] theorem State.addLog_engine (s : State) (e : LogEvent) : (s.addLog e).engine = s.engine := rfl
@[simp] theorem State.addLog_draws (s : State) (e : LogEvent) : (s.addLog e).draws = s.draws := rfl
@[simp] theorem State.addLog_epoch (s : State) (e : LogEvent) : (s.addLog e).epoch = s.epoch := rfl
@[simp] theorem State.addLog_stageEpoch (s : State) (e : LogEvent) : (s.addLog e).stageEpoch = s.stageEpoch := rfl
@[simp] theorem State.addLog_sampleAt (s : State) (e : LogEvent) (i : Nat) : (s.addLog e).sampleAt i = s.sampleAt i := rfl
@[simp] theorem State.addLog_obAt (s : State) (e : LogEvent) (i : Nat) : (s.addLog e).obAt i = s.obAt i := rfl
@[simp] theorem State.addLog_wAt (s : State) (e : LogEvent) (i : Nat) : (s.addLog e).wAt i = s.wAt i := rfl

/-! ## `takeDraw` -/

@[simp] theorem State.takeDraw_dir (s : State) : s.takeDraw.dir = s.dir := rfl
@[simp] theorem State.takeDraw_emitPerUnit (s : State) : s.takeDraw.emitPerUnit = s.emitPerUnit := rfl
@[simp] theorem State.takeDraw_life (s : State) : s.takeDraw.life = s.life := rfl
@[simp] theorem State.takeDraw_phase (s : State) : s.takeDraw.phase = s.phase := rfl
@[simp] theorem State.takeDraw_handle (s : State) : s.takeDraw.handle = s.handle := rfl
@[simp] theorem State.takeDraw_sb (s : State) : s.takeDraw.sb = s.sb := rfl
@[simp] theorem State.takeDraw_samples (s : State) : s.takeDraw.samples = s.samples := rfl
@[simp] theorem State.takeDraw_datalen (s : State) : s.takeDraw.datalen = s.datalen := rfl
@[simp] theorem State.takeDraw_w (s : State) : s.takeDraw.w = s.w := rfl
@[simp] theorem State.takeDraw_ob (s : State) : s.takeDraw.ob = s.ob := rfl
@[simp] theorem State.takeDraw_busy (s : State) : s.takeDraw.busy = s.busy := rfl
@[simp] theorem State.takeDraw_inbox (s : State) : s.takeDraw.inbox = s.inbox := rfl
@[simp] theorem State.takeDraw_resetLine (s : State) : s.takeDraw.resetLine = s.resetLine := rfl
@[simp] theorem State.takeDraw_ret (s : State) : s.takeDraw.ret = s.ret := rfl
@[simp] theorem State.takeDraw_chain (s : State) : s.takeDraw.chain = s.chain := rfl
@[simp] theorem State.takeDraw_log (s : State) : s.takeDraw.log = s.log := rfl
@[simp] theorem State.takeDraw_engine (s : State) : s.takeDraw.engine = s.engine := rfl
@[simp] theorem State.takeDraw_draws (s : State) : s.takeDraw.draws = s.draws + 1 := rfl
@[simp] theorem State.takeDraw_epoch (s : State) : s.takeDraw.epoch = s.epoch := rfl
@[simp] theorem State.takeDraw_stageEpoch (s : State) : s.takeDraw.stageEpoch = s.stageEpoch := rfl
@[simp] theorem State.takeDraw_sampleAt (s : State) (i : Nat) : s.takeDraw.sampleAt i = s.sampleAt i := rfl
@[simp] theorem State.takeDraw_obAt (s : State) (i : Nat) : s.takeDraw.obAt i = s.obAt i := rfl
@[simp] theorem State.takeDraw_wAt (s : State) (i : Nat) : s.takeDraw.wAt i = s.wAt i := rfl

/-! ## `nextEpoch` -/

@[simp] theorem State.nextEpoch_dir (s : State) : s.nextEpoch.dir = s.dir := rfl
@[simp] theorem State.nextEpoch_emitPerUnit (s : State) : s.nextEpoch.emitPerUnit = s.emitPerUnit := rfl
@[simp] theorem State.nextEpoch_life (s : State) : s.nextEpoch.life = s.life := rfl
@[simp] theorem State.nextEpoch_phase (s : State) : s.nextEpoch.phase = s.phase := rfl
@[simp] theorem State.nextEpoch_handle (s : State) : s.nextEpoch.handle = s.handle := rfl
@[simp] theorem State.nextEpoch_sb (s : State) : s.nextEpoch.sb = s.sb := rfl
@[simp] theorem State.nextEpoch_samples (s : State) : s.nextEpoch.samples = s.samples := rfl
@[simp] theorem State.nextEpoch_datalen (s : State) : s.nextEpoch.datalen = s.datalen := rfl
@[simp] theorem State.nextEpoch_w (s : State) : s.nextEpoch.w = s.w := rfl
@[simp] theorem State.nextEpoch_ob (s : State) : s.nextEpoch.ob = s.ob := rfl
@[simp] theorem State.nextEpoch_busy (s : State) : s.nextEpoch.busy = s.busy := rfl
@[simp] theorem State.nextEpoch_inbox (s : State) : s.nextEpoch.inbox = s.inbox := rfl
@[simp] theorem State.nextEpoch_resetLine (s : State) : s.nextEpoch.resetLine = s.resetLine := rfl
@[simp] theorem State.nextEpoch_ret (s : State) : s.nextEpoch.ret = s.ret := rfl
@[simp] theorem State.nextEpoch_chain (s : State) : s.nextEpoch.chain = s.chain := rfl
@[simp] theorem State.nextEpoch_log (s : State) : s.nextEpoch.log = s.log := rfl
@[simp] theorem State.nextEpoch_engine (s : State) : s.nextEpoch.engine = s.engine := rfl
@[simp] theorem State.nextEpoch_draws (s : State) : s.nextEpoch.draws = s.draws := rfl
@[simp] theorem State.nextEpoch_epoch (s : State) : s.nextEpoch.epoch = s.epoch + 1 := rfl
@[simp] theorem State.nextEpoch_stageEpoch (s : State) : s.nextEpoch.stageEpoch = s.stageEpoch := rfl
@[simp] theorem State.nextEpoch_obAt (s : State) (i : Nat) : s.nextEpoch.obAt i = s.obAt i := rfl
@[simp] theorem State.nextEpoch_wAt (s : State) (i : Nat) : s.nextEpoch.wAt i = s.wAt i := rfl

/-! ## `retain` -/

@[simp] theorem State.retain_dir (s : State) (vs : List Sample) : (s.retain vs).dir = s.dir := rfl
@[simp] theorem State.retain_emitPerUnit (s : State) (vs : List Sample) : (s.retain vs).emitPerUnit = s.emitPerUnit := rfl
@[simp] theorem State.retain_life (s : State) (vs : List Sample) : (s.retain vs).life = s.life := rfl
@[simp] theorem State.retain_phase (s : State) (vs : List Sample) : (s.retain vs).phase = s.phase := rfl
@[simp] theorem State.retain_handle (s : State) (vs : List Sample) : (s.retain vs).handle = s.handle := rfl
@[simp] theorem State.retain_sb (s : State) (vs : List Sample) : (s.retain vs).sb = Memory.run 0 vs := rfl
@[simp] theorem State.retain_samples (s : State) (vs : List Sample) : (s.retain vs).samples = s.samples := rfl
@[simp] theorem State.retain_datalen (s : State) (vs : List Sample) : (s.retain vs).datalen = s.datalen := rfl
@[simp] theorem State.retain_w (s : State) (vs : List Sample) : (s.retain vs).w = s.w := rfl
@[simp] theorem State.retain_ob (s : State) (vs : List Sample) : (s.retain vs).ob = s.ob := rfl
@[simp] theorem State.retain_busy (s : State) (vs : List Sample) : (s.retain vs).busy = s.busy := rfl
@[simp] theorem State.retain_inbox (s : State) (vs : List Sample) : (s.retain vs).inbox = s.inbox := rfl
@[simp] theorem State.retain_resetLine (s : State) (vs : List Sample) : (s.retain vs).resetLine = s.resetLine := rfl
@[simp] theorem State.retain_ret (s : State) (vs : List Sample) : (s.retain vs).ret = s.ret := rfl
@[simp] theorem State.retain_chain (s : State) (vs : List Sample) : (s.retain vs).chain = s.chain := rfl
@[simp] theorem State.retain_log (s : State) (vs : List Sample) : (s.retain vs).log = s.log := rfl
@[simp] theorem State.retain_engine (s : State) (vs : List Sample) : (s.retain vs).engine = s.engine := rfl
@[simp] theorem State.retain_draws (s : State) (vs : List Sample) : (s.retain vs).draws = s.draws := rfl
@[simp] theorem State.retain_epoch (s : State) (vs : List Sample) : (s.retain vs).epoch = s.epoch + 1 := rfl
@[simp] theorem State.retain_stageEpoch (s : State) (vs : List Sample) : (s.retain vs).stageEpoch = s.stageEpoch := rfl
@[simp] theorem State.retain_obAt (s : State) (vs : List Sample) (i : Nat) : (s.retain vs).obAt i = s.obAt i := rfl
@[simp] theorem State.retain_wAt (s : State) (vs : List Sample) (i : Nat) : (s.retain vs).wAt i = s.wAt i := rfl

/-! ## `dropAbove` -/

@[simp] theorem State.dropAbove_dir (s : State) (n : Nat) : (s.dropAbove n).dir = s.dir := by
  unfold State.dropAbove; split <;> rfl
@[simp] theorem State.dropAbove_emitPerUnit (s : State) (n : Nat) : (s.dropAbove n).emitPerUnit = s.emitPerUnit := by
  unfold State.dropAbove; split <;> rfl
@[simp] theorem State.dropAbove_life (s : State) (n : Nat) : (s.dropAbove n).life = s.life := by
  unfold State.dropAbove; split <;> rfl
@[simp] theorem State.dropAbove_phase (s : State) (n : Nat) : (s.dropAbove n).phase = s.phase := by
  unfold State.dropAbove; split <;> rfl
@[simp] theorem State.dropAbove_handle (s : State) (n : Nat) : (s.dropAbove n).handle = s.handle := by
  unfold State.dropAbove; split <;> rfl
@[simp] theorem State.dropAbove_samples (s : State) (n : Nat) : (s.dropAbove n).samples = s.samples := by
  unfold State.dropAbove; split <;> rfl
@[simp] theorem State.dropAbove_datalen (s : State) (n : Nat) : (s.dropAbove n).datalen = s.datalen := by
  unfold State.dropAbove; split <;> rfl
@[simp] theorem State.dropAbove_w (s : State) (n : Nat) : (s.dropAbove n).w = s.w := by
  unfold State.dropAbove; split <;> rfl
@[simp] theorem State.dropAbove_ob (s : State) (n : Nat) : (s.dropAbove n).ob = s.ob := by
  unfold State.dropAbove; split <;> rfl
@[simp] theorem State.dropAbove_busy (s : State) (n : Nat) : (s.dropAbove n).busy = s.busy := by
  unfold State.dropAbove; split <;> rfl
@[simp] theorem State.dropAbove_inbox (s : State) (n : Nat) : (s.dropAbove n).inbox = s.inbox := by
  unfold State.dropAbove; split <;> rfl
@[simp] theorem State.dropAbove_resetLine (s : State) (n : Nat) : (s.dropAbove n).resetLine = s.resetLine := by
  unfold State.dropAbove; split <;> rfl
@[simp] theorem State.dropAbove_ret (s : State) (n : Nat) : (s.dropAbove n).ret = s.ret := by
  unfold State.dropAbove; split <;> rfl
@[simp] theorem State.dropAbove_chain (s : State) (n : Nat) : (s.dropAbove n).chain = s.chain := by
  unfold State.dropAbove; split <;> rfl
@[simp] theorem State.dropAbove_log (s : State) (n : Nat) : (s.dropAbove n).log = s.log := by
  unfold State.dropAbove; split <;> rfl
@[simp] theorem State.dropAbove_engine (s : State) (n : Nat) : (s.dropAbove n).engine = s.engine := by
  unfold State.dropAbove; split <;> rfl
@[simp] theorem State.dropAbove_draws (s : State) (n : Nat) : (s.dropAbove n).draws = s.draws := by
  unfold State.dropAbove; split <;> rfl
@[simp] theorem State.dropAbove_stageEpoch (s : State) (n : Nat) : (s.dropAbove n).stageEpoch = s.stageEpoch := by
  unfold State.dropAbove; split <;> rfl
@[simp] theorem State.dropAbove_obAt (s : State) (n i : Nat) : (s.dropAbove n).obAt i = s.obAt i := by
  unfold State.dropAbove; split <;> rfl
@[simp] theorem State.dropAbove_wAt (s : State) (n i : Nat) : (s.dropAbove n).wAt i = s.wAt i := by
  unfold State.dropAbove; split <;> rfl

/-! ## `discardBuffers` -/

@[simp] theorem State.discardBuffers_dir (s : State) : s.discardBuffers.dir = s.dir := rfl
@[simp] theorem State.discardBuffers_emitPerUnit (s : State) : s.discardBuffers.emitPerUnit = s.emitPerUnit := rfl
@[simp] theorem State.discardBuffers_life (s : State) : s.discardBuffers.life = s.life := rfl
@[simp] theorem State.discardBuffers_phase (s : State) : s.discardBuffers.phase = s.phase := rfl
@[simp] theorem State.discardBuffers_handle (s : State) : s.discardBuffers.handle = s.handle := rfl
@[simp] theorem State.discardBuffers_sb (s : State) : s.discardBuffers.sb = [] := rfl
@[simp] theorem State.discardBuffers_samples (s : State) : s.discardBuffers.samples = s.samples := rfl
@[simp] theorem State.discardBuffers_datalen (s : State) : s.discardBuffers.datalen = s.datalen := rfl
@[simp] theorem State.discardBuffers_w (s : State) : s.discardBuffers.w = [] := rfl
@[simp] theorem State.discardBuffers_ob (s : State) : s.discardBuffers.ob = [] := rfl
@[simp] theorem State.discardBuffers_busy (s : State) : s.discardBuffers.busy = s.busy := rfl
@[simp] theorem State.discardBuffers_inbox (s : State) : s.discardBuffers.inbox = s.inbox := rfl
@[simp] theorem State.discardBuffers_resetLine (s : State) : s.discardBuffers.resetLine = s.resetLine := rfl
@[simp] theorem State.discardBuffers_ret (s : State) : s.discardBuffers.ret = s.ret := rfl
@[simp] theorem State.discardBuffers_chain (s : State) : s.discardBuffers.chain = s.chain := rfl
@[simp] theorem State.discardBuffers_log (s : State) : s.discardBuffers.log = s.log := rfl
@[simp] theorem State.discardBuffers_engine (s : State) : s.discardBuffers.engine = s.engine := rfl
@[simp] theorem State.discardBuffers_draws (s : State) : s.discardBuffers.draws = s.draws := rfl
@[simp] theorem State.discardBuffers_epoch (s : State) : s.discardBuffers.epoch = s.epoch + 1 := rfl
@[simp] theorem State.discardBuffers_stageEpoch (s : State) : s.discardBuffers.stageEpoch = s.stageEpoch + 1 := rfl

end Sys2Proof.Machine
end

