-- ==== Sys2Proof/Laws/Outcome.lean ====
section
/-!
SUPPORT. Sys2Proof/Laws/Outcome.lean: when each of the combinators and gates answers a next state.
-/

namespace Sys2Proof.Machine

@[simp] theorem andThen_next (s : State) (k : State → Outcome) : andThen (.next s) k = k s := rfl

@[simp] theorem andThen_fault (r : Fault) (k : State → Outcome) : andThen (.fault r) k = .fault r := rfl

@[simp] theorem andThen_refused (r : Refusal) (k : State → Outcome) : andThen (.refused r) k = .refused r := rfl

/-- A sequence answers next exactly if both of its parts do. -/
theorem andThen_eq_next {o : Outcome} {k : State → Outcome} {t : State} :
    andThen o k = .next t ↔ ∃ s, o = .next s ∧ k s = .next t := by
  cases o <;> simp [andThen]

/-- The same while an engine call may hang: the operation then stops in the state of the hang. -/
theorem unlessHung_eq_next {o : Outcome} {k : State → Outcome} {t : State} :
    unlessHung o k = .next t ↔
      ∃ s, o = .next s ∧ ((s.busy = true ∧ t = s) ∨ (s.busy = false ∧ k s = .next t)) := by
  unfold unlessHung
  rw [andThen_eq_next]
  refine exists_congr fun s => and_congr_right fun _ => ?_
  cases h : s.busy <;> simp [eq_comm]

theorem unlessHung_next_of_idle {s : State} (k : State → Outcome) (h : s.busy = false) :
    unlessHung (.next s) k = k s := by simp [unlessHung, h]

theorem unlessHung_next_of_hung {s : State} (k : State → Outcome) (h : s.busy = true) :
    unlessHung (.next s) k = .next s := by simp [unlessHung, h]

theorem unlessRunning_eq_next {s t : State} {k : Outcome} :
    unlessRunning s k = .next t ↔ s.busy = false ∧ k = .next t := by
  unfold unlessRunning
  cases s.busy <;> simp

theorem publicOp_eq_next {d : Dir} {s t : State} {k : Outcome} :
    publicOp d s k = .next t ↔ s.dir = d ∧ s.busy = false ∧ k = .next t := by
  unfold publicOp
  by_cases h : s.dir = d <;> simp [h, unlessRunning_eq_next]

theorem ifLive_eq_next {s t : State} {k : Outcome} : ifLive s k = .next t ↔ s.life = .live ∧ k = .next t := by
  unfold ifLive
  by_cases h : s.life = .live <;> simp [h]

theorem ifUncreated_eq_next {s t : State} {k : Outcome} :
    ifUncreated s k = .next t ↔ s.life = .uncreated ∧ k = .next t := by
  unfold ifUncreated
  by_cases h : s.life = .uncreated <;> simp [h]

/-- The gates let an operation of the context's own direction through while none is running. -/
theorem publicOp_open {d : Dir} {s : State} (k : Outcome) (hd : s.dir = d) (hb : s.busy = false) :
    publicOp d s k = k := by simp [publicOp, unlessRunning, hd, hb]

theorem unlessRunning_open {s : State} (k : Outcome) (hb : s.busy = false) : unlessRunning s k = k := by
  simp [unlessRunning, hb]

theorem ifLive_open {s : State} (k : Outcome) (h : s.life = .live) : ifLive s k = k := by simp [ifLive, h]

theorem ifUncreated_open {s : State} (k : Outcome) (h : s.life = .uncreated) : ifUncreated s k = k := by
  simp [ifUncreated, h]

end Sys2Proof.Machine
end

