-- ==== Sys2Proof/Laws/Accumulator.lean ====
section
/-!
SUPPORT. Sys2Proof/Laws/Accumulator.lean: everything ACC.APPEND and ACC.COMPACT can do, as one equation for each case,
and what the samples read as afterwards.
-/

namespace Sys2Proof.Machine

theorem readSb_eq {s : State} {a n : Nat} (h : a + n ≤ Config.CAP) : readSb s a n = some (s.slice a n) := by
  simp only [readSb, h, if_true]

theorem readSb_none {s : State} {a n : Nat} (h : Config.CAP < a + n) : readSb s a n = none := by
  have : ¬ a + n ≤ Config.CAP := by omega
  simp only [readSb, this, if_false]

@[simp] theorem State.slice_length (s : State) (a n : Nat) : (s.slice a n).length = n := by simp [State.slice]

theorem State.slice_get {s : State} {a n k : Nat} (h : k < n) : (s.slice a n)[k]? = some (s.sampleAt (a + k)) := by
  simp [State.slice, h]

/-! ## What falls out of the count -/

/-- Below the end of what is retained it is read, above it everything is a fresh free value (R31(b)). -/
theorem State.retain_sampleAt (s : State) (vs : List Sample) (i : Nat) :
    (s.retain vs).sampleAt i = vs[i]?.getD (Config.unspecSample (s.epoch + 1) i) := by
  simp only [State.sampleAt, State.retain, State.nextEpoch_sb, State.setSb_sb, State.nextEpoch_epoch,
    State.setSb_epoch, Memory.find?_run, Nat.zero_le, if_true, Nat.sub_zero]

/-- A count that does not fall drops nothing. -/
@[simp] theorem State.dropAbove_of_le {s : State} {n : Nat} (h : s.samples ≤ n) : s.dropAbove n = s :=
  if_neg (Nat.not_lt.2 h)

theorem State.dropAbove_of_lt {s : State} {n : Nat} (h : n < s.samples) :
    s.dropAbove n = s.retain (s.slice 0 n) := if_pos h

/-- Below the count everything stays. -/
theorem State.dropAbove_sampleAt {s : State} {n i : Nat} (h : i < n) : (s.dropAbove n).sampleAt i = s.sampleAt i := by
  by_cases hn : n < s.samples
  · rw [State.dropAbove_of_lt hn, State.retain_sampleAt, State.slice_get h, Nat.zero_add]
    rfl
  · rw [State.dropAbove_of_le (Nat.le_of_not_lt hn)]

/-- From a count that falls on, nothing is known. -/
theorem State.dropAbove_sampleAt_ge {s : State} {n i : Nat} (h : n < s.samples) (hi : n ≤ i) :
    (s.dropAbove n).sampleAt i = Config.unspecSample (s.epoch + 1) i := by
  rw [State.dropAbove_of_lt h, State.retain_sampleAt, List.getElem?_eq_none (by simpa using hi)]
  rfl

/-- What is dropped leaves the canonical form. -/
theorem State.dropAbove_wf {s : State} {n : Nat} (h : Memory.wf Config.CAP s.sb = true) (hn : n ≤ Config.CAP) :
    Memory.wf Config.CAP (s.dropAbove n).sb = true := by
  by_cases hc : n < s.samples
  · rw [State.dropAbove_of_lt hc]
    exact Memory.wfFrom_run _ (by simpa using hn)
  · rwa [State.dropAbove_of_le (Nat.le_of_not_lt hc)]

/-- Nothing is listed from `n` on where nothing was listed from the larger of `n` and the count on. -/
theorem State.dropAbove_below {s : State} {n : Nat} (h : ∀ c ∈ s.sb, c.1 < max n s.samples) :
    ∀ c ∈ (s.dropAbove n).sb, c.1 < n := by
  intro c hc
  by_cases hn : n < s.samples
  · rw [State.dropAbove_of_lt hn] at hc
    simpa using (Memory.mem_run hc).2
  · rw [State.dropAbove_of_le (Nat.le_of_not_lt hn)] at hc
    have := h c hc
    omega

/-! ## The two operations -/

/-- ACC.APPEND inside the capacity (R68). -/
theorem append_eq {e : Nat} {d : List Sample} {s : State} (h : e + d.length ≤ Config.CAP) :
    append e d s = .next (((s.setSb (Memory.write s.sb e d)).dropAbove (e + d.length)).setCounts (e + d.length)
      (appendedDatalen s d.length)) := by
  simp only [append, writeSb, h, if_true]

/-- ACC.APPEND inside the capacity where the count does not fall, as the driver issues it (R59, R68). -/
theorem append_eq_end {e : Nat} {d : List Sample} {s : State} (h : e + d.length ≤ Config.CAP)
    (hs : s.samples ≤ e + d.length) : append e d s =
      .next ((s.setSb (Memory.write s.sb e d)).setCounts (e + d.length) (appendedDatalen s d.length)) := by
  rw [append_eq h, State.dropAbove_of_le (by simpa using hs)]

/-- ACC.APPEND beyond the capacity (R70). -/
theorem append_overrun {e : Nat} {d : List Sample} {s : State} (h : Config.CAP < e + d.length) :
    append e d s = .fault .bufferOverrun := by
  have : ¬ e + d.length ≤ Config.CAP := by omega
  simp only [append, writeSb, this, if_false]

/-- Everything ACC.APPEND can do. -/
theorem append_eq_next {e : Nat} {d : List Sample} {s t : State} : append e d s = .next t ↔
    e + d.length ≤ Config.CAP ∧
      t = ((s.setSb (Memory.write s.sb e d)).dropAbove (e + d.length)).setCounts (e + d.length)
        (appendedDatalen s d.length) := by
  by_cases h : e + d.length ≤ Config.CAP
  · rw [append_eq h]; simp only [Host.Outcome.next.injEq, h, true_and]; exact eq_comm
  · rw [append_overrun (by omega)]; simp [h]

/-- Everything an ACC.APPEND at the count can do (R59). -/
theorem append_end_eq_next {d : List Sample} {s t : State} : append s.samples d s = .next t ↔
    s.samples + d.length ≤ Config.CAP ∧ t = (s.setSb (Memory.write s.sb s.samples d)).setCounts
      (s.samples + d.length) (appendedDatalen s d.length) := by
  rw [append_eq_next, State.dropAbove_of_le (by simp)]

/-- ACC.COMPACT inside the buffer (R71): `SB` holds the samples moved, and nothing else is specified. -/
theorem compact_eq {c r : Nat} {s : State} (h : c + r ≤ Config.CAP) :
    compact c r s = .next (((s.setSb (Memory.run 0 (s.slice c r))).setCounts r s.datalen).nextEpoch) := by
  simp only [compact, readSb_eq h]
  rfl

theorem compact_overrun {c r : Nat} {s : State} (h : Config.CAP < c + r) :
    compact c r s = .fault .bufferOverrun := by
  simp only [compact, readSb_none h]

/-- Everything ACC.COMPACT can do. -/
theorem compact_eq_next {c r : Nat} {s t : State} : compact c r s = .next t ↔
    c + r ≤ Config.CAP ∧ t = ((s.setSb (Memory.run 0 (s.slice c r))).setCounts r s.datalen).nextEpoch := by
  by_cases h : c + r ≤ Config.CAP
  · rw [compact_eq h]; simp only [Host.Outcome.next.injEq, h, true_and]; exact eq_comm
  · rw [compact_overrun (by omega)]; simp [h]

/-- The samples after MemWrite (R37). -/
theorem sampleAt_write (s : State) (a : Nat) (d : List Sample) (i : Nat) :
    (s.setSb (Memory.write s.sb a d)).sampleAt i =
      if a ≤ i ∧ i < a + d.length then d.getD (i - a) 0 else s.sampleAt i := by
  unfold State.sampleAt
  simp only [State.setSb_sb, State.setSb_epoch, Memory.find?_write]
  by_cases h : a ≤ i ∧ i < a + d.length
  · have hl : i - a < d.length := by omega
    simp [h, hl]
  · simp [h]

/-- The samples after a compaction (R71). -/
theorem sampleAt_compacted (s : State) (c r n l k : Nat) (h : k < r) :
    (((s.setSb (Memory.run 0 (s.slice c r))).setCounts n l).nextEpoch).sampleAt k = s.sampleAt (c + k) := by
  unfold State.sampleAt
  simp only [State.nextEpoch_sb, State.setCounts_sb, State.setSb_sb, Memory.find?_run, Nat.zero_le, if_true,
    Nat.sub_zero, State.slice_get h, Option.getD_some]
  rfl

end Sys2Proof.Machine
end

