-- ==== Sys2Proof/Laws/Repacker.lean ====
section
/-!
SUPPORT. Sys2Proof/Laws/Repacker.lean: the repacked bytes one by one (R75 to R77, R83 to R85) and what the two
repackers do to the state.
-/

namespace Sys2Proof.Machine

/-! ## Nibbles -/

theorem joinNibbles_getLsbD (a b : Nibble) (i : Nat) :
    (joinNibbles a b).getLsbD i = if i < 4 then b.getLsbD i else a.getLsbD (i - 4) := by
  unfold joinNibbles
  exact BitVec.getLsbD_append

theorem hi4_getLsbD (a : Byte) (i : Nat) : (hi4 a).getLsbD i = (decide (i < 4) && a.getLsbD (4 + i)) := by
  simp [hi4, BitVec.getLsbD_extractLsb']

theorem lo4_getLsbD (a : Byte) (i : Nat) : (lo4 a).getLsbD i = (decide (i < 4) && a.getLsbD i) := by
  simp [lo4, BitVec.getLsbD_extractLsb']

/-- R75: the shifts and the OR are the concatenation of two nibbles. -/
theorem packByte_eq (a b : Byte) : packByte a b = joinNibbles (lo4 a) (hi4 b) := by
  refine BitVec.eq_of_getLsbD_eq fun i h => ?_
  rw [joinNibbles_getLsbD, hi4_getLsbD, lo4_getLsbD]
  unfold packByte
  by_cases h4 : i < 4
  · simp [h4]
  · have hb : b.getLsbD (4 + i) = false := BitVec.getLsbD_of_ge _ _ (by omega)
    have hi : i - 4 < 4 := by omega
    have ha := BitVec.getLsbD_eq_getElem (x := a) (show i - 4 < 8 by omega)
    simp [h4, h, hi, hb, ha]

theorem packTail_eq (a : Byte) (g : Nibble) : packTail a g = joinNibbles (lo4 a) g := by
  refine BitVec.eq_of_getLsbD_eq fun i h => ?_
  rw [joinNibbles_getLsbD, lo4_getLsbD]
  unfold packTail
  by_cases h4 : i < 4
  · simp [h4, h]
  · have hg : g.getLsbD i = false := BitVec.getLsbD_of_ge _ _ (by omega)
    have hi : i - 4 < 4 := by omega
    have ha := BitVec.getLsbD_eq_getElem (x := a) (show i - 4 < 8 by omega)
    simp [h4, h, hi, hg, ha]

@[simp] theorem hi4_joinNibbles (a b : Nibble) : hi4 (joinNibbles a b) = a := by
  refine BitVec.eq_of_getLsbD_eq fun i h => ?_
  rw [hi4_getLsbD, joinNibbles_getLsbD]
  simp [h]

@[simp] theorem lo4_joinNibbles (a b : Nibble) : lo4 (joinNibbles a b) = b := by
  refine BitVec.eq_of_getLsbD_eq fun i h => ?_
  rw [lo4_getLsbD, joinNibbles_getLsbD]
  simp [h]

/-- A byte is its two nibbles. -/
@[simp] theorem joinNibbles_hi4_lo4 (a : Byte) : joinNibbles (hi4 a) (lo4 a) = a := by
  refine BitVec.eq_of_getLsbD_eq fun i h => ?_
  rw [joinNibbles_getLsbD, hi4_getLsbD, lo4_getLsbD]
  by_cases h4 : i < 4
  · simp [h4]
  · have hi : i - 4 < 4 := by omega
    have e : 4 + (i - 4) = i := by omega
    simp [h4, hi, e]

/-- The shift that leaves the low nibble alone in the high place (R85). -/
theorem shiftLeft_four_eq (a : Byte) : a <<< 4 = joinNibbles (lo4 a) 0 := by
  have h := packTail_eq a 0
  simpa [packTail] using h

theorem headerByte_eq : headerByte = 0x3C := by decide

/-! ## Frames -/

/-- R76: bytes 0 to 30 of a packed frame. -/
theorem packFrame_get (s : Frame) (g : Nibble) (i : Nat) (h : i < 31) :
    (packFrame s g)[i] = joinNibbles (lo4 s[i]) (hi4 s[i + 1]) := by
  have h' : i + 1 < 32 := by omega
  simp [packFrame, h', packByte_eq]

/-- R77: byte 31 of a packed frame. -/
theorem packFrame_last (s : Frame) (g : Nibble) : (packFrame s g)[31] = joinNibbles (lo4 s[31]) g := by
  simp [packFrame, packTail_eq]

/-- R83: the header. -/
theorem unpackFrame_header (q : Stride) : (unpackFrame q)[0] = 0x3C := by
  simp [unpackFrame, headerByte_eq]

/-- R84: bytes 1 to 30 of a rebuilt storage frame. -/
theorem unpackFrame_get (q : Stride) (i : Nat) (h0 : 0 < i) (h : i < 31) :
    (unpackFrame q)[i] = joinNibbles (lo4 q[i - 1]) (hi4 q[i]) := by
  have h' : i ≠ 0 := by omega
  simp [unpackFrame, h, h', packByte_eq]

/-- R85: the last byte. -/
theorem unpackFrame_last (q : Stride) : (unpackFrame q)[31] = joinNibbles (lo4 q[30]) 0 := by
  simp [unpackFrame, shiftLeft_four_eq]

/-! ## The staging buffers -/

theorem writeOb_obAt (s : State) (f : Frame) (i : Nat) :
    (writeOb s f).obAt i = if h : i < 32 then f[i] else s.obAt i := by
  unfold writeOb State.obAt
  simp only [State.setOb_ob, State.setOb_stageEpoch, Memory.find?_write]
  by_cases h : i < 32
  · simp [h, Vector.length_toList]
  · simp [h, Vector.length_toList]

theorem writeW_wAt (s : State) (f : Frame) (i : Nat) :
    (writeW s f).wAt i = if h : i < 32 then f[i] else s.wAt i := by
  unfold writeW State.wAt
  simp only [State.setW_w, State.setW_stageEpoch, Memory.find?_write]
  by_cases h : i < 32
  · simp [h, Vector.length_toList]
  · simp [h, Vector.length_toList]

@[simp] theorem readOb_writeOb (s : State) (f : Frame) : readOb (writeOb s f) = f := by
  ext i h
  simp [readOb, writeOb_obAt]

@[simp] theorem readW_writeW (s : State) (f : Frame) : readW (writeW s f) = f := by
  ext i h
  simp [readW, writeW_wAt]

/-- RPK.DEC builds its frame in `W`, whatever stood there (R82). -/
@[simp] theorem readW_repackDecode (q : Stride) (s : State) : readW (repackDecode q s).2 = unpackFrame q := by
  simp [repackDecode]

@[simp] theorem repackDecode_fst (q : Stride) (s : State) : (repackDecode q s).1 = unpackFrame q := rfl

@[simp] theorem repackEncode_fst (f : Frame) (s : State) :
    (repackEncode f s).1 = packFrame f (Config.drawNibble s.draws) := rfl

@[simp] theorem readOb_repackEncode (f : Frame) (s : State) :
    readOb (repackEncode f s).2 = packFrame f (Config.drawNibble s.draws) := by
  have h : readOb (repackEncode f s).2 = readOb (writeOb s (packFrame f (Config.drawNibble s.draws))) := rfl
  rw [h, readOb_writeOb]

/-- Bytes of `W` after RPK.DEC. -/
theorem repackDecode_wAt (q : Stride) (s : State) (i : Nat) :
    (repackDecode q s).2.wAt i = if h : i < 32 then (unpackFrame q)[i] else s.wAt i := by
  unfold repackDecode
  simp only [writeW_wAt]
  by_cases h : i < 32 <;> simp [h]

/-- Bytes of `OB` after RPK.ENC. -/
theorem repackEncode_obAt (f : Frame) (s : State) (i : Nat) :
    (repackEncode f s).2.obAt i =
      if h : i < 32 then (packFrame f (Config.drawNibble s.draws))[i] else s.obAt i := by
  unfold repackEncode
  simp only [State.takeDraw_obAt, writeOb_obAt]

/-- RPK.DEC writes `W` and nothing else (R81). -/
theorem repackDecode_state (q : Stride) (s : State) : ∃ m, (repackDecode q s).2 = s.setW m ∧
    (Memory.wf 32 s.w = true → Memory.wf 32 m = true) := by
  refine ⟨_, rfl, fun h => ?_⟩
  exact Memory.wf_write (Memory.wf_write h (by simp)) (by simp)

/-- RPK.ENC writes `OB`, uses one draw, and does nothing else (R74, R79). -/
theorem repackEncode_state (f : Frame) (s : State) : ∃ m, (repackEncode f s).2 = (s.setOb m).takeDraw ∧
    (Memory.wf 32 s.ob = true → Memory.wf 32 m = true) := by
  refine ⟨_, rfl, fun h => ?_⟩
  exact Memory.wf_write h (by simp)

end Sys2Proof.Machine
end

