-- ==== Sys2Proof/Laws/Engine.lean ====
section
/-!
SUPPORT. Sys2Proof/Laws/Engine.lean: the engine transactions: what each records, which answer it takes, and that it
touches nothing but the engine port.
-/

namespace Sys2Proof.Machine

variable {α : Type}

@[simp] theorem takeReply_cons (r : Reply α) (rs : List (Reply α)) (free : List EngineCall → Reply α)
    (calls : List EngineCall) : takeReply (r :: rs) free calls = (r, rs) := rfl

@[simp] theorem takeReply_nil (free : List EngineCall → Reply α) (calls : List EngineCall) :
    takeReply [] free calls = (free calls, []) := rfl

/-- With an answer queued, that one is taken. -/
theorem engineCreate_queued {s : State} {d : Dir} {r : Reply (Option Nat)} {rest : List (Reply (Option Nat))}
    (h : s.engine.creates = r :: rest) :
    engineCreate d s =
      (r, s.setEngine { s.engine with creates := rest, calls := s.engine.calls ++ [createCall d] }) := by
  simp [engineCreate, h]

theorem engineEncode_queued {s : State} {pcm : List Sample} {r : Reply EncodeAnswer}
    {rest : List (Reply EncodeAnswer)} (h : s.engine.encodes = r :: rest) :
    engineEncode pcm s = (r, s.setEngine { s.engine with
      encodes := rest, calls := s.engine.calls ++ [.encode s.handle Config.MODE_SEL pcm Config.forceFlag] }) := by
  simp [engineEncode, h]

theorem engineDecode_queued {s : State} {f : Frame} {r : Reply Block} {rest : List (Reply Block)}
    (h : s.engine.decodes = r :: rest) :
    engineDecode f s = (r, s.setEngine { s.engine with
      decodes := rest, calls := s.engine.calls ++ [.decode s.handle f Config.bfiGood] }) := by
  simp [engineDecode, h]

theorem engineDestroy_queued {s : State} {d : Dir} {hd : Handle} {r : Reply Unit} {rest : List (Reply Unit)}
    (h : s.engine.destroys = r :: rest) :
    engineDestroy d hd s =
      (r, s.setEngine { s.engine with destroys := rest, calls := s.engine.calls ++ [destroyCall d hd] }) := by
  simp [engineDestroy, h]

/-- Whatever is queued, a transaction changes the engine port only, and records itself. -/
theorem engineCreate_state (d : Dir) (s : State) : ∃ e, (engineCreate d s).2 = s.setEngine e ∧
    e.calls = s.engine.calls ++ [createCall d] := ⟨_, rfl, rfl⟩

theorem engineEncode_state (pcm : List Sample) (s : State) : ∃ q, (engineEncode pcm s).2 = s.setEngine { s.engine with
    encodes := q, calls := s.engine.calls ++ [.encode s.handle Config.MODE_SEL pcm Config.forceFlag] } := ⟨_, rfl⟩

theorem engineDecode_state (f : Frame) (s : State) : ∃ q, (engineDecode f s).2 = s.setEngine { s.engine with
    decodes := q, calls := s.engine.calls ++ [.decode s.handle f Config.bfiGood] } := ⟨_, rfl⟩

theorem engineDestroy_state (d : Dir) (h : Handle) (s : State) : ∃ e, (engineDestroy d h s).2 = s.setEngine e ∧
    e.calls = s.engine.calls ++ [destroyCall d h] := ⟨_, rfl, rfl⟩

end Sys2Proof.Machine
end

