-- ==== Sys2Proof/Laws/DecodeDriver.lean ====
section
/-!
SUPPORT. Sys2Proof/Laws/DecodeDriver.lean: the loop of DEC.FRAMEIN (R87, R102): what one stride can do, what it leaves
alone, and the whole loop when the engine answers.
-/

namespace Sys2Proof.Machine

/-- What one stride of DEC.FRAMEIN leaves alone. -/
structure StrideKeeps (s t : State) : Prop where
  dir : t.dir = s.dir
  emitPerUnit : t.emitPerUnit = s.emitPerUnit
  life : t.life = s.life
  handle : t.handle = s.handle
  ob : t.ob = s.ob
  inbox : t.inbox = s.inbox
  resetLine : t.resetLine = s.resetLine
  chain : t.chain = s.chain
  log : t.log = s.log
  draws : t.draws = s.draws
  epoch : t.epoch = s.epoch
  stageEpoch : t.stageEpoch = s.stageEpoch
  creates : t.engine.creates = s.engine.creates
  encodes : t.engine.encodes = s.engine.encodes
  destroys : t.engine.destroys = s.engine.destroys

theorem StrideKeeps.refl (s : State) : StrideKeeps s s := by constructor <;> rfl

theorem StrideKeeps.trans {s t u : State} (h : StrideKeeps s t) (k : StrideKeeps t u) : StrideKeeps s u :=
  ⟨k.dir.trans h.dir, k.emitPerUnit.trans h.emitPerUnit, k.life.trans h.life, k.handle.trans h.handle,
    k.ob.trans h.ob, k.inbox.trans h.inbox, k.resetLine.trans h.resetLine, k.chain.trans h.chain, k.log.trans h.log, k.draws.trans h.draws,
    k.epoch.trans h.epoch, k.stageEpoch.trans h.stageEpoch, k.creates.trans h.creates, k.encodes.trans h.encodes,
    k.destroys.trans h.destroys⟩

theorem StrideKeeps.obAt {s t : State} (h : StrideKeeps s t) (i : Nat) : t.obAt i = s.obAt i := by
  simp only [State.obAt, h.ob, h.stageEpoch]

/-! ## Reading a delivery -/

/-- A delivery is read inside its data only (R36, R38). -/
theorem readStride_eq {data : List Byte} {x : Nat} (h : x + Config.PSTRIDE ≤ data.length) :
    readStride data x = some (Vector.ofFn fun i : Fin 31 => data.getD (x + i.val) 0) := by
  simp only [readStride, h, if_true]

theorem readStride_strideOf {data : List Byte} {k : Nat}
    (h : Config.PSTRIDE * k + Config.PSTRIDE ≤ data.length) :
    readStride data (Config.PSTRIDE * k) = some (strideOf data k) := readStride_eq h

/-- The bytes of a stride decide it (R88). -/
theorem readStride_congr {data data' : List Byte} {x : Nat} (hl : data.length = data'.length)
    (h : ∀ i, i < Config.PSTRIDE → data[x + i]? = data'[x + i]?) : readStride data x = readStride data' x := by
  have hv : (Vector.ofFn fun i : Fin 31 => data.getD (x + i.val) 0) =
      Vector.ofFn fun i : Fin 31 => data'.getD (x + i.val) 0 := by
    congr 1
    funext i
    rw [List.getD_eq_getElem?_getD, List.getD_eq_getElem?_getD, h i.val i.isLt]
  simp only [readStride, hl, hv]

/-! ## One stride -/

/-- Everything an answer to a stride can lead to (R102): a hang, or the block appended, or the overrun. -/
theorem decodeAnswered_eq_next {r : Reply Block} {s t : State} (h : decodeAnswered r s = .next t) :
    (r = .silent ∧ t = s.hang) ∨
      ∃ b : Block, r = .answer b ∧ s.samples + Config.UNIT ≤ Config.CAP ∧
        t = ((s.setSb (Memory.write s.sb s.samples b.toList)).setCounts (s.samples + Config.UNIT)
          (appendedDatalen s Config.UNIT)).setPhase .accumulating := by
  cases r with
  | silent => exact .inl ⟨rfl, (Host.Outcome.next.inj h).symm⟩
  | answer b =>
    obtain ⟨u, hu, ht⟩ := andThen_eq_next.1 h
    obtain ⟨hc, rfl⟩ := append_end_eq_next.1 hu
    simp only [Vector.length_toList] at hc ht
    exact .inr ⟨b, rfl, hc, (Host.Outcome.next.inj ht).symm⟩

/-- The state in which a stride's decode call is made. -/
theorem decodeStride_eq {data : List Byte} {x : Nat} {s : State} {q : Stride} (h : readStride data x = some q) :
    decodeStride data x s =
      decodeAnswered (engineDecode (unpackFrame q) ((repackDecode q s).2.setPhase .frameReady)).1
        (engineDecode (unpackFrame q) ((repackDecode q s).2.setPhase .frameReady)).2 := by
  simp only [decodeStride, h, readW_repackDecode]

/-- Everything one stride can do: one decode call on the rebuilt frame; then a hang, or its block appended. -/
theorem decodeStride_eq_next {data : List Byte} {x : Nat} {s t : State} (h : decodeStride data x s = .next t) :
    ∃ q, readStride data x = some q ∧ StrideKeeps s t ∧
      t.engine.calls = s.engine.calls ++ [.decode s.handle (unpackFrame q) Config.bfiGood] ∧
      (∀ i (h : i < 32), t.wAt i = (unpackFrame q)[i]) ∧
      (Memory.wf 32 s.w = true → Memory.wf 32 t.w = true) ∧
      ((t.busy = true ∧ t.ret = none ∧ t.sb = s.sb ∧ t.samples = s.samples ∧ t.datalen = s.datalen ∧
          t.phase = .frameReady) ∨
        ∃ b : Block, t.busy = s.busy ∧ t.ret = s.ret ∧ s.samples + Config.UNIT ≤ Config.CAP ∧
          t.sb = Memory.write s.sb s.samples b.toList ∧ t.samples = s.samples + Config.UNIT ∧
          t.datalen = appendedDatalen s Config.UNIT ∧ t.phase = .accumulating) := by
  cases hq : readStride data x with
  | none => simp only [decodeStride, hq] at h; cases h
  | some q =>
    rw [decodeStride_eq hq] at h
    obtain ⟨m, hm, hmw⟩ := repackDecode_state q s
    obtain ⟨e, he⟩ := engineDecode_state (unpackFrame q) ((repackDecode q s).2.setPhase .frameReady)
    have hw := repackDecode_wAt q s
    rw [hm] at hw he h
    refine ⟨q, rfl, ?_⟩
    rcases decodeAnswered_eq_next h with ⟨_, rfl⟩ | ⟨b, _, hc, rfl⟩
    · rw [he]
      refine ⟨by constructor <;> rfl, rfl, ?_, hmw,
        .inl ⟨rfl, rfl, rfl, rfl, rfl, rfl⟩⟩
      intro i hi
      simpa [hi] using hw i
    · rw [he] at hc ⊢
      refine ⟨by constructor <;> rfl, rfl, ?_, hmw,
        .inr ⟨b, rfl, rfl, hc, rfl, rfl, rfl, rfl⟩⟩
      intro i hi
      simpa [hi] using hw i

/-- One stride whose call is answered, with room for its block (R102). -/
theorem decodeStride_answered {data : List Byte} {x : Nat} {s : State} {q : Stride} {b : Block}
    {rest : List (Reply Block)} (hq : readStride data x = some q) (he : s.engine.decodes = .answer b :: rest)
    (hc : s.samples + Config.UNIT ≤ Config.CAP) :
    ∃ t, decodeStride data x s = .next t ∧ StrideKeeps s t ∧ t.busy = s.busy ∧ t.ret = s.ret ∧
      t.sb = Memory.write s.sb s.samples b.toList ∧ t.samples = s.samples + Config.UNIT ∧
      t.datalen = appendedDatalen s Config.UNIT ∧ t.phase = .accumulating ∧ t.engine.decodes = rest ∧
      t.engine.calls = s.engine.calls ++ [.decode s.handle (unpackFrame q) Config.bfiGood] ∧
      (∀ i (h : i < 32), t.wAt i = (unpackFrame q)[i]) := by
  obtain ⟨m, hm, _⟩ := repackDecode_state q s
  have hw := repackDecode_wAt q s
  have hqd : engineDecode (unpackFrame q) ((repackDecode q s).2.setPhase .frameReady) = (.answer b, _) :=
    engineDecode_queued (by rw [hm]; exact he)
  rw [decodeStride_eq hq, hqd]
  simp only [decodeAnswered]
  rw [append_eq_end (by rw [hm]; simpa using hc) (Nat.le_add_right _ _), andThen_next, hm]
  rw [hm] at hw
  refine ⟨_, rfl, by constructor <;> rfl, rfl, rfl, rfl, ?_, ?_, rfl, rfl, rfl, ?_⟩
  · simp
  · simp [appendedDatalen, Config.UNIT]
  · intro i hi
    simpa [hi] using hw i

/-- One stride whose call is answered, without room for its block (R130). -/
theorem decodeStride_overrun {data : List Byte} {x : Nat} {s : State} {q : Stride} {b : Block}
    {rest : List (Reply Block)} (hq : readStride data x = some q) (he : s.engine.decodes = .answer b :: rest)
    (hc : Config.CAP < s.samples + Config.UNIT) : decodeStride data x s = .fault .bufferOverrun := by
  obtain ⟨m, hm, _⟩ := repackDecode_state q s
  have hqd : engineDecode (unpackFrame q) ((repackDecode q s).2.setPhase .frameReady) = (.answer b, _) :=
    engineDecode_queued (by rw [hm]; exact he)
  rw [decodeStride_eq hq, hqd]
  simp only [decodeAnswered]
  rw [append_overrun (by rw [hm]; simpa using hc), andThen_fault]

/-! ## The loop -/

/-- What every stride keeps, the loop keeps. -/
theorem decodeStrides_induct {data : List Byte} {P : State → Prop}
    (hu : ∀ x s t, decodeStride data x s = .next t → P s → P t) :
    ∀ (m x : Nat) (s t : State), decodeStrides data m x s = .next t → P s → P t := by
  intro m
  induction m with
  | zero => intro x s t h hp; cases h; exact hp
  | succ m ih =>
    intro x s t h hp
    obtain ⟨u, hu1, h2⟩ := unlessHung_eq_next.1 h
    rcases h2 with ⟨_, rfl⟩ | ⟨_, h2⟩
    · exact hu x s _ hu1 hp
    · exact ih _ u t h2 (hu x s u hu1 hp)

theorem decodeStrides_keeps {data : List Byte} {m x : Nat} {s t : State}
    (h : decodeStrides data m x s = .next t) : StrideKeeps s t :=
  decodeStrides_induct (P := StrideKeeps s)
    (fun _ _ _ hu hp => hp.trans (let ⟨_, _, k, _⟩ := decodeStride_eq_next hu; k)) m x s t h (StrideKeeps.refl s)

theorem decodeAnswered_cases (r : Reply Block) (s : State) :
    (∃ t, decodeAnswered r s = .next t) ∨
      (decodeAnswered r s = .fault .bufferOverrun ∧ Config.CAP < s.samples + Config.UNIT) := by
  cases r with
  | silent => exact .inl ⟨_, rfl⟩
  | answer b =>
    simp only [decodeAnswered]
    by_cases hc : s.samples + Config.UNIT ≤ Config.CAP
    · rw [append_eq (by simpa using hc), andThen_next]
      exact .inl ⟨_, rfl⟩
    · rw [append_overrun (by simpa using hc), andThen_fault]
      exact .inr ⟨rfl, Nat.lt_of_not_le hc⟩

/-- A stride never ends in a refusal, and in a fault only where it reaches outside a buffer or the delivery. -/
theorem decodeStride_cases (data : List Byte) (x : Nat) (s : State) :
    (∃ t, decodeStride data x s = .next t) ∨
      (decodeStride data x s = .fault .bufferOverrun ∧
        (data.length < x + Config.PSTRIDE ∨ Config.CAP < s.samples + Config.UNIT)) := by
  by_cases hx : x + Config.PSTRIDE ≤ data.length
  · rw [decodeStride_eq (readStride_eq hx)]
    rcases decodeAnswered_cases _ (engineDecode _ ((repackDecode _ s).2.setPhase .frameReady)).2 with h | ⟨h, hc⟩
    · exact .inl h
    · exact .inr ⟨h, .inr hc⟩
  · refine .inr ⟨?_, .inl (Nat.lt_of_not_le hx)⟩
    simp only [decodeStride, readStride, hx, if_false]

/-- The loop is never refused. -/
theorem decodeStrides_not_refused {data : List Byte} (r : Refusal) : ∀ (m x : Nat) (s : State),
    decodeStrides data m x s ≠ .refused r := by
  intro m
  induction m with
  | zero => intro x s; nofun
  | succ m ih =>
    intro x s
    rcases decodeStride_cases data x s with ⟨t, ht⟩ | ⟨hf, _⟩
    · simp only [decodeStrides, ht, unlessHung, andThen_next]
      split
      · nofun
      · exact ih _ _
    · simp only [decodeStrides, hf, unlessHung, andThen_fault]
      nofun

/-- The loop over `n + m` strides is the loop over `n`, then, unless that one hangs, the loop over the next `m`
(R87). -/
theorem decodeStrides_add {data : List Byte} (m : Nat) : ∀ (n x : Nat) (s : State), s.busy = false →
    decodeStrides data (n + m) x s =
      unlessHung (decodeStrides data n x s) fun t => decodeStrides data m (x + Config.PSTRIDE * n) t := by
  intro n
  induction n with
  | zero => intro x s hb; rw [Nat.zero_add]; exact (unlessHung_next_of_idle _ hb).symm
  | succ n ih =>
    intro x s hb
    rw [Nat.succ_add]
    simp only [decodeStrides]
    cases decodeStride data x s with
    | next u =>
      cases hu : u.busy with
      | true => simp [unlessHung, hu]
      | false =>
        rw [unlessHung_next_of_idle _ hu, unlessHung_next_of_idle _ hu, ih _ u hu]
        simp only [Config.PSTRIDE, Nat.mul_succ, Nat.add_assoc, Nat.add_comm 31]
    | fault r => rfl
    | refused r => rfl

/-- Inside the delivery and the buffer the loop has a next state, whatever the engine does. -/
theorem decodeStrides_total {data : List Byte} : ∀ (m x : Nat) (s : State), x + Config.PSTRIDE * m ≤ data.length →
    s.samples + Config.UNIT * m ≤ Config.CAP → ∃ t, decodeStrides data m x s = .next t := by
  intro m
  induction m with
  | zero => intro x s _ _; exact ⟨s, rfl⟩
  | succ m ih =>
    intro x s hx hc
    simp only [Config.PSTRIDE, Config.UNIT, Config.CAP] at hx hc
    rcases decodeStride_cases data x s with ⟨t, ht⟩ | ⟨_, hf | hf⟩
    · simp only [decodeStrides, ht, unlessHung, andThen_next]
      split
      · exact ⟨_, rfl⟩
      · obtain ⟨_, _, _, _, _, _, h⟩ := decodeStride_eq_next ht
        have hs : t.samples ≤ s.samples + Config.UNIT := by
          rcases h with ⟨_, _, _, hs, _⟩ | ⟨_, _, _, _, _, hs, _⟩ <;> simp only [hs] <;> omega
        simp only [Config.UNIT] at hs
        exact ih _ _ (by simp only [Config.PSTRIDE]; omega) (by simp only [Config.UNIT, Config.CAP]; omega)
    · simp only [Config.PSTRIDE] at hf; omega
    · simp only [Config.UNIT, Config.CAP] at hf; omega

/-- The loop reads the delivery's full strides only (R88). -/
theorem decodeStrides_congr {data data' : List Byte} (hl : data.length = data'.length) :
    ∀ (m x : Nat) (s : State), (∀ i, i < x + Config.PSTRIDE * m → data[i]? = data'[i]?) →
      decodeStrides data m x s = decodeStrides data' m x s := by
  intro m
  induction m with
  | zero => intro x s _; rfl
  | succ m ih =>
    intro x s h
    have h1 : readStride data x = readStride data' x := readStride_congr hl fun i hi =>
      h (x + i) (by simp only [Config.PSTRIDE] at hi ⊢; omega)
    have h2 : decodeStride data x s = decodeStride data' x s := by simp only [decodeStride, h1]
    have h3 : (fun s' => decodeStrides data m (x + Config.PSTRIDE) s') =
        fun s' => decodeStrides data' m (x + Config.PSTRIDE) s' := funext fun s' =>
      ih (x + Config.PSTRIDE) s' fun i hi => h i (by simp only [Config.PSTRIDE] at hi ⊢; omega)
    simp only [decodeStrides, h2, h3]

/-- The samples after one block is written at the counter. -/
theorem sampleAt_block {s t : State} {b : Block} (hsb : t.sb = Memory.write s.sb s.samples b.toList)
    (he : t.epoch = s.epoch) (i : Nat) :
    t.sampleAt i = if s.samples ≤ i ∧ i < s.samples + Config.UNIT then b.toList.getD (i - s.samples) 0
      else s.sampleAt i := by
  have h := sampleAt_write s s.samples b.toList i
  simp only [Vector.length_toList] at h
  rw [← h]
  simp only [State.sampleAt, hsb, he, State.setSb_sb, State.setSb_epoch]

/-- The whole loop when the engine answers every stride and the blocks fit (R102). -/
theorem decodeStrides_answered {data : List Byte} (bs : List Block) :
    ∀ (n : Nat) (s : State) (rest : List (Reply Block)), s.busy = false → s.dir = .dec →
      Config.PSTRIDE * n + Config.PSTRIDE * bs.length ≤ data.length →
      s.engine.decodes = bs.map .answer ++ rest → s.samples + Config.UNIT * bs.length ≤ Config.CAP →
      ∃ t, decodeStrides data bs.length (Config.PSTRIDE * n) s = .next t ∧ StrideKeeps s t ∧ t.busy = false ∧
        t.ret = s.ret ∧ t.samples = s.samples + Config.UNIT * bs.length ∧
        t.datalen = s.datalen + Config.UNIT_BYTES * bs.length ∧ t.engine.decodes = rest ∧
        (∀ (k : Nat) (hk : k < bs.length) (j : Nat) (hj : j < 160),
          t.sampleAt (s.samples + 160 * k + j) = (bs[k])[j]) ∧
        (∀ i, ¬ (s.samples ≤ i ∧ i < s.samples + Config.UNIT * bs.length) → t.sampleAt i = s.sampleAt i) ∧
        t.engine.calls = s.engine.calls ++ (List.range bs.length).map (fun k =>
          .decode s.handle (unpackFrame (strideOf data (n + k))) Config.bfiGood) ∧
        (∀ k, bs.length = k + 1 →
          ∀ (i : Nat) (h : i < 32), t.wAt i = (unpackFrame (strideOf data (n + k)))[i]) ∧
        (bs.length = 0 → t = s) := by
  induction bs with
  | nil =>
    intro n s rest hb _ _ he _
    exact ⟨s, rfl, StrideKeeps.refl s, hb, rfl, rfl, rfl, by simpa using he, by simp, by simp, by simp,
      by simp, by simp⟩
  | cons b bs ih =>
    intro n s rest hb hd hl he hc
    simp only [List.length_cons, Config.PSTRIDE, Config.UNIT, Config.CAP] at hl hc
    have hq : readStride data (Config.PSTRIDE * n) = some (strideOf data n) :=
      readStride_strideOf (by simp only [Config.PSTRIDE]; omega)
    obtain ⟨u, hu, hk, hub, hur, husb, hus, hud, hup, hue, huc, huw⟩ :=
      decodeStride_answered (s := s) hq (by simpa using he) (by simp only [Config.UNIT, Config.CAP]; omega)
    have hdu : u.dir = .dec := by rw [hk.dir, hd]
    have hud' : u.datalen = s.datalen + 320 := by rw [hud]; simp [appendedDatalen, hd, Config.UNIT]
    obtain ⟨t, ht, hkt, htb, htr, hts, htd, hte, htin, htout, htc, htw, htz⟩ :=
      ih (n + 1) u rest (by rw [hub]; exact hb) hdu (by simp only [Config.PSTRIDE]; omega) hue
        (by simp only [Config.UNIT, Config.CAP] at hus ⊢; omega)
    have hx : Config.PSTRIDE * n + Config.PSTRIDE = Config.PSTRIDE * (n + 1) := by
      simp only [Config.PSTRIDE]; omega
    have hin1 : ∀ (j : Nat) (hj : j < 160), u.sampleAt (s.samples + j) = b[j] := by
      intro j hj
      rw [sampleAt_block husb hk.epoch, if_pos (by simp only [Config.UNIT]; omega)]
      simp [hj]
    refine ⟨t, ?_, hk.trans hkt, htb, htr.trans hur, ?_, ?_, hte, ?_, ?_, ?_, ?_, by simp⟩
    · show unlessHung (decodeStride data (Config.PSTRIDE * n) s) _ = _
      rw [hu, unlessHung_next_of_idle _ (by rw [hub]; exact hb), hx]
      exact ht
    · simp only [hts, hus, List.length_cons, Config.UNIT]; omega
    · simp only [htd, hud', List.length_cons, Config.UNIT_BYTES]; omega
    · intro k hk' j hj
      cases k with
      | zero =>
        have hns : ¬ (u.samples ≤ s.samples + 160 * 0 + j ∧
            s.samples + 160 * 0 + j < u.samples + Config.UNIT * bs.length) := by
          simp only [Config.UNIT] at hus ⊢; omega
        rw [htout _ hns]
        simpa using hin1 j hj
      | succ k =>
        have hk2 : k < bs.length := by simpa using hk'
        have hi : s.samples + 160 * (k + 1) + j = u.samples + 160 * k + j := by
          simp only [Config.UNIT] at hus; omega
        rw [hi, htin k hk2 j hj]
        rfl
    · intro i hi
      simp only [List.length_cons, Config.UNIT] at hi
      rw [htout i (by simp only [Config.UNIT] at hus ⊢; omega), sampleAt_block husb hk.epoch,
        if_neg (by simp only [Config.UNIT]; omega)]
    · rw [htc, huc, List.length_cons, List.range_succ_eq_map, List.map_cons, List.map_map, hk.handle]
      simp only [List.append_assoc, List.singleton_append, Nat.add_zero]
      refine congrArg (s.engine.calls ++ ·) (List.cons_eq_cons.2 ⟨rfl, List.map_congr_left fun k _ => ?_⟩)
      simp only [Function.comp_apply, Nat.succ_eq_add_one, Nat.add_assoc, Nat.add_comm 1 k]
    · intro k hk' i h
      have hlen : bs.length = k := by simpa using hk'
      cases k with
      | zero =>
        rw [htz hlen]
        simpa using huw i h
      | succ k =>
        have e : n + (k + 1) = n + 1 + k := by omega
        rw [htw k hlen i h]
        simp only [e]

/-- The loop when the engine answers and the blocks do not fit (R130): the append that crosses 8000 faults. -/
theorem decodeStrides_overrun {data : List Byte} (bs : List Block) :
    ∀ (n : Nat) (s : State) (rest : List (Reply Block)), s.busy = false →
      Config.PSTRIDE * n + Config.PSTRIDE * bs.length ≤ data.length →
      s.engine.decodes = bs.map .answer ++ rest → s.samples ≤ Config.CAP →
      Config.CAP < s.samples + Config.UNIT * bs.length →
      decodeStrides data bs.length (Config.PSTRIDE * n) s = .fault .bufferOverrun := by
  induction bs with
  | nil => intro n s rest _ _ _ h1 h2; simp only [List.length_nil] at h2; omega
  | cons b bs ih =>
    intro n s rest hb hl he h1 h2
    simp only [List.length_cons, Config.PSTRIDE, Config.UNIT, Config.CAP] at hl h2 h1
    have hq : readStride data (Config.PSTRIDE * n) = some (strideOf data n) :=
      readStride_strideOf (by simp only [Config.PSTRIDE]; omega)
    have hx : Config.PSTRIDE * n + Config.PSTRIDE = Config.PSTRIDE * (n + 1) := by
      simp only [Config.PSTRIDE]; omega
    show unlessHung (decodeStride data (Config.PSTRIDE * n) s) _ = _
    by_cases hc : s.samples + Config.UNIT ≤ Config.CAP
    · obtain ⟨u, hu, hk, hub, _, _, hus, _, _, hue, _⟩ :=
        decodeStride_answered (s := s) hq (by simpa using he) hc
      rw [hu, unlessHung_next_of_idle _ (by rw [hub]; exact hb), hx]
      exact ih (n + 1) u rest (by rw [hub]; exact hb) (by simp only [Config.PSTRIDE]; omega) hue
        (by rw [hus]; exact hc) (by simp only [Config.UNIT, Config.CAP] at hus ⊢; omega)
    · rw [decodeStride_overrun hq (by simpa using he) (Nat.lt_of_not_le hc)]
      rfl

end Sys2Proof.Machine
end

