-- ==== Sys2Proof/Laws/EncodeDriver.lean ====
section
/-!
SUPPORT. Sys2Proof/Laws/EncodeDriver.lean: the loop of ENC.FRAMEOUT (R94): what one unit can do, what it leaves alone,
and the whole loop when the engine answers.
-/

namespace Sys2Proof.Machine

/-- What one unit of ENC.FRAMEOUT leaves alone. -/
structure UnitKeeps (s t : State) : Prop where
  dir : t.dir = s.dir
  emitPerUnit : t.emitPerUnit = s.emitPerUnit
  life : t.life = s.life
  handle : t.handle = s.handle
  sb : t.sb = s.sb
  samples : t.samples = s.samples
  datalen : t.datalen = s.datalen
  w : t.w = s.w
  inbox : t.inbox = s.inbox
  resetLine : t.resetLine = s.resetLine
  epoch : t.epoch = s.epoch
  stageEpoch : t.stageEpoch = s.stageEpoch
  creates : t.engine.creates = s.engine.creates
  decodes : t.engine.decodes = s.engine.decodes
  destroys : t.engine.destroys = s.engine.destroys

theorem UnitKeeps.refl (s : State) : UnitKeeps s s := by constructor <;> rfl

theorem UnitKeeps.trans {s t u : State} (h : UnitKeeps s t) (k : UnitKeeps t u) : UnitKeeps s u :=
  ⟨k.dir.trans h.dir, k.emitPerUnit.trans h.emitPerUnit, k.life.trans h.life, k.handle.trans h.handle,
    k.sb.trans h.sb, k.samples.trans h.samples, k.datalen.trans h.datalen, k.w.trans h.w, k.inbox.trans h.inbox, k.resetLine.trans h.resetLine,
    k.epoch.trans h.epoch, k.stageEpoch.trans h.stageEpoch, k.creates.trans h.creates,
    k.decodes.trans h.decodes, k.destroys.trans h.destroys⟩

theorem UnitKeeps.sampleAt {s t : State} (h : UnitKeeps s t) (i : Nat) : t.sampleAt i = s.sampleAt i := by
  simp only [State.sampleAt, h.sb, h.epoch]

theorem UnitKeeps.slice {s t : State} (h : UnitKeeps s t) (a n : Nat) : t.slice a n = s.slice a n := by
  simp only [State.slice, h.sampleAt]

theorem UnitKeeps.wAt {s t : State} (h : UnitKeeps s t) (i : Nat) : t.wAt i = s.wAt i := by
  simp only [State.wAt, h.w, h.stageEpoch]

/-! ## One unit -/

/-- A unit's success, field by field (R94, R118): one draw, one frame, `OB` holds the packed frame. -/
theorem emitUnit_spec (f : Frame) (s : State) :
    UnitKeeps s (emitUnit f s) ∧ (emitUnit f s).busy = s.busy ∧ (emitUnit f s).ret = s.ret ∧
      (emitUnit f s).log = s.log ∧ (emitUnit f s).engine = s.engine ∧ (emitUnit f s).draws = s.draws + 1 ∧
      (emitUnit f s).chain = s.chain ++ [packedRecord (packFrame f (Config.drawNibble s.draws))] ∧
      (∀ i (h : i < 32), (emitUnit f s).obAt i = (packFrame f (Config.drawNibble s.draws))[i]) ∧
      (Memory.wf 32 s.ob = true → Memory.wf 32 (emitUnit f s).ob = true) := by
  have hd : (writeOb (s.setPhase .emitting) f).draws = s.draws := rfl
  refine ⟨by constructor <;> rfl, rfl, rfl, rfl, rfl, rfl, ?_, ?_, ?_⟩
  · simp only [emitUnit, State.emit_chain, repackEncode_fst, readOb_writeOb, hd]
    rfl
  · intro i h
    simp only [emitUnit, State.emit_obAt, repackEncode_obAt, readOb_writeOb, hd, h, dif_pos]
  · intro hw
    simp only [emitUnit, State.emit_ob]
    obtain ⟨m, e, hm⟩ := repackEncode_state (readOb (writeOb (s.setPhase .emitting) f))
      (writeOb (s.setPhase .emitting) f)
    rw [e]
    exact hm (Memory.wf_write hw (by simp))

/-- What the engine's answer to a unit can lead to (R94, R129): the frame, the log event, or a hang. -/
theorem encodeAnswered_spec (r : Reply EncodeAnswer) (s : State) :
    UnitKeeps s (encodeAnswered r s) ∧ (encodeAnswered r s).engine = s.engine ∧
      (Memory.wf 32 s.ob = true → Memory.wf 32 (encodeAnswered r s).ob = true) ∧
      ((r = .silent ∧ encodeAnswered r s = s.hang) ∨
        ∃ a, r = .answer a ∧ (encodeAnswered r s).busy = s.busy ∧ (encodeAnswered r s).ret = s.ret ∧
          (encodeAnswered r s).phase = .accumulating ∧
          ((a.status = Config.ENC_OK ∧ (encodeAnswered r s).log = s.log ∧
              (encodeAnswered r s).draws = s.draws + 1 ∧
              (encodeAnswered r s).chain =
                s.chain ++ [packedRecord (packFrame a.payload (Config.drawNibble s.draws))] ∧
              ∀ i (h : i < 32), (encodeAnswered r s).obAt i =
                (packFrame a.payload (Config.drawNibble s.draws))[i]) ∨
            (a.status ≠ Config.ENC_OK ∧ (encodeAnswered r s).log = s.log ++ [.encodeStatusMismatch a.status] ∧
              (encodeAnswered r s).draws = s.draws ∧ (encodeAnswered r s).chain = s.chain ∧
              (encodeAnswered r s).ob = s.ob))) := by
  cases r with
  | silent => exact ⟨by constructor <;> rfl, rfl, id, .inl ⟨rfl, rfl⟩⟩
  | answer a =>
    by_cases h : a.status = Config.ENC_OK
    · obtain ⟨k, hb, hr, hl, he, hd, hc, ho, hw⟩ := emitUnit_spec a.payload s
      have e : encodeAnswered (.answer a) s = (emitUnit a.payload s).setPhase .accumulating := by
        simp only [encodeAnswered, h, if_true]
      rw [e]
      refine ⟨k.trans (by constructor <;> rfl), he, hw, .inr ⟨a, rfl, hb, hr, rfl, ?_⟩⟩
      exact .inl ⟨h, hl, hd, hc, ho⟩
    · have e : encodeAnswered (.answer a) s =
          (raiseEncodeStatusMismatch a.status s).setPhase .accumulating := by
        simp only [encodeAnswered, h, if_false]
      rw [e]
      exact ⟨by constructor <;> rfl, rfl, id,
        .inr ⟨a, rfl, rfl, rfl, rfl, .inr ⟨h, rfl, rfl, rfl, rfl⟩⟩⟩

/-- A unit inside the buffer (R94). -/
theorem encodeUnit_eq {c : Nat} {s : State} (h : c + Config.UNIT ≤ Config.CAP) :
    encodeUnit c s = .next (encodeAnswered (engineEncode (s.slice c Config.UNIT) (s.setPhase .frameReady)).1
      (engineEncode (s.slice c Config.UNIT) (s.setPhase .frameReady)).2) := by
  simp only [encodeUnit, readSb_eq h]

theorem encodeUnit_eq_next {c : Nat} {s t : State} (h : encodeUnit c s = .next t) :
    c + Config.UNIT ≤ Config.CAP ∧
      t = encodeAnswered (engineEncode (s.slice c Config.UNIT) (s.setPhase .frameReady)).1
        (engineEncode (s.slice c Config.UNIT) (s.setPhase .frameReady)).2 := by
  by_cases hc : c + Config.UNIT ≤ Config.CAP
  · rw [encodeUnit_eq hc] at h
    exact ⟨hc, (Host.Outcome.next.inj h).symm⟩
  · simp only [encodeUnit, readSb_none (Nat.lt_of_not_le hc)] at h
    cases h

/-- A unit leaves the context and its samples alone and issues one encode call (R94). -/
theorem encodeUnit_keeps {c : Nat} {s t : State} (h : encodeUnit c s = .next t) :
    UnitKeeps s t ∧ t.engine.calls = s.engine.calls ++
        [.encode s.handle Config.MODE_SEL (s.slice c Config.UNIT) Config.forceFlag] ∧
      (Memory.wf 32 s.ob = true → Memory.wf 32 t.ob = true) := by
  obtain ⟨_, rfl⟩ := encodeUnit_eq_next h
  obtain ⟨e, he⟩ := engineEncode_state (s.slice c Config.UNIT) (s.setPhase .frameReady)
  obtain ⟨k, heng, hw, _⟩ := encodeAnswered_spec
    (engineEncode (s.slice c Config.UNIT) (s.setPhase .frameReady)).1
    (engineEncode (s.slice c Config.UNIT) (s.setPhase .frameReady)).2
  refine ⟨UnitKeeps.trans ?_ k, ?_, fun h => hw ?_⟩
  · rw [he]; constructor <;> rfl
  · rw [heng, he]; rfl
  · rw [he]; exact h

/-! ## The loop -/

/-- What every unit keeps, the loop keeps. -/
theorem encodeUnits_induct {P : State → Prop} (hu : ∀ c s t, encodeUnit c s = .next t → P s → P t) :
    ∀ (n c : Nat) (s t : State), encodeUnits n c s = .next t → P s → P t := by
  intro n
  induction n with
  | zero => intro c s t h hp; cases h; exact hp
  | succ n ih =>
    intro c s t h hp
    obtain ⟨u, hu1, h2⟩ := unlessHung_eq_next.1 h
    rcases h2 with ⟨_, rfl⟩ | ⟨_, h2⟩
    · exact hu c s _ hu1 hp
    · exact ih _ u t h2 (hu c s u hu1 hp)

theorem encodeUnits_keeps {n c : Nat} {s t : State} (h : encodeUnits n c s = .next t) : UnitKeeps s t :=
  encodeUnits_induct (P := UnitKeeps s) (fun _ _ _ hu hp => hp.trans (encodeUnit_keeps hu).1) n c s t h
    (UnitKeeps.refl s)

/-- The loop over `n + m` units is the loop over `n`, then, unless that one hangs, the loop over the next `m` (R94). -/
theorem encodeUnits_add (m : Nat) : ∀ (n c : Nat) (s : State), s.busy = false →
    encodeUnits (n + m) c s = unlessHung (encodeUnits n c s) fun t => encodeUnits m (c + Config.UNIT * n) t := by
  intro n
  induction n with
  | zero => intro c s hb; rw [Nat.zero_add]; exact (unlessHung_next_of_idle _ hb).symm
  | succ n ih =>
    intro c s hb
    rw [Nat.succ_add]
    simp only [encodeUnits]
    cases encodeUnit c s with
    | next u =>
      cases hu : u.busy with
      | true => simp [unlessHung, hu]
      | false =>
        rw [unlessHung_next_of_idle _ hu, unlessHung_next_of_idle _ hu, ih _ u hu]
        simp only [Config.UNIT, Nat.mul_succ, Nat.add_assoc, Nat.add_comm 160]
    | fault r => rfl
    | refused r => rfl

/-- Inside the buffer the loop has a next state, whatever the engine does. -/
theorem encodeUnits_total : ∀ (n c : Nat) (s : State), c + Config.UNIT * n ≤ Config.CAP →
    ∃ t, encodeUnits n c s = .next t := by
  intro n
  induction n with
  | zero => intro c s _; exact ⟨s, rfl⟩
  | succ n ih =>
    intro c s h
    simp only [Config.UNIT, Config.CAP] at h
    simp only [encodeUnits, encodeUnit_eq (s := s) (show c + Config.UNIT ≤ Config.CAP by
      simp only [Config.UNIT, Config.CAP]; omega), unlessHung, andThen_next]
    split
    · exact ⟨_, rfl⟩
    · exact ih _ _ (by simp only [Config.UNIT, Config.CAP]; omega)

/-- The loop is never refused. -/
theorem encodeUnits_not_refused (r : Refusal) : ∀ (n c : Nat) (s : State), encodeUnits n c s ≠ .refused r := by
  intro n
  induction n with
  | zero => intro c s; nofun
  | succ n ih =>
    intro c s
    by_cases hc : c + Config.UNIT ≤ Config.CAP
    · simp only [encodeUnits, encodeUnit_eq hc, unlessHung, andThen_next]
      split
      · nofun
      · exact ih _ _
    · simp only [encodeUnits, encodeUnit, readSb_none (Nat.lt_of_not_le hc), unlessHung, andThen_fault]
      nofun

/-- The whole loop when the engine answers every unit (R94, R95). -/
theorem encodeUnits_answered (as : List EncodeAnswer) : ∀ (c : Nat) (s : State) (rest : List (Reply EncodeAnswer)),
    s.busy = false → c + Config.UNIT * as.length ≤ Config.CAP → s.engine.encodes = as.map .answer ++ rest →
    ∃ t, encodeUnits as.length c s = .next t ∧ UnitKeeps s t ∧ t.busy = false ∧ t.ret = s.ret ∧
      t.chain = s.chain ++ framesFor as s.draws ∧ t.log = s.log ++ mismatchesFor as ∧
      t.engine.encodes = rest ∧
      t.engine.calls = s.engine.calls ++ (List.range as.length).map (fun k =>
        .encode s.handle Config.MODE_SEL (s.slice (c + Config.UNIT * k) Config.UNIT) Config.forceFlag) ∧
      t.phase = (if as.length = 0 then s.phase else .accumulating) ∧
      t.draws = s.draws + successCount as ∧
      (∀ p, (framesFor as s.draws).getLast? = some (packedRecord p) → ∀ i (h : i < 32), t.obAt i = p[i]) ∧
      (framesFor as s.draws = [] → ∀ i, t.obAt i = s.obAt i) := by
  induction as with
  | nil =>
    intro c s rest hb _ he
    refine ⟨s, rfl, UnitKeeps.refl s, hb, rfl, ?_, ?_, ?_, ?_, ?_, ?_, ?_, ?_⟩ <;>
      simp_all [framesFor, mismatchesFor, successCount]
  | cons a as ih =>
    intro c s rest hb hc he
    simp only [List.length_cons] at hc
    have hc1 : c + Config.UNIT ≤ Config.CAP := by simp only [Config.UNIT] at hc ⊢; omega
    have hc2 : (c + Config.UNIT) + Config.UNIT * as.length ≤ Config.CAP := by
      simp only [Config.UNIT] at hc ⊢; omega
    have hq : engineEncode (s.slice c Config.UNIT) (s.setPhase .frameReady) = (.answer a, _) :=
      engineEncode_queued (s := s.setPhase .frameReady) (by simpa using he)
    obtain ⟨k, heng, _, hcase⟩ := encodeAnswered_spec
      (engineEncode (s.slice c Config.UNIT) (s.setPhase .frameReady)).1
      (engineEncode (s.slice c Config.UNIT) (s.setPhase .frameReady)).2
    have hunit := encodeUnit_eq (s := s) hc1
    generalize hu : encodeAnswered (engineEncode (s.slice c Config.UNIT) (s.setPhase .frameReady)).1
      (engineEncode (s.slice c Config.UNIT) (s.setPhase .frameReady)).2 = u at *
    rw [hq] at k heng hcase
    rcases hcase with ⟨hs, _⟩ | ⟨a', ha, hbusy, hret, hphase, hcase⟩
    · cases hs
    obtain rfl : a = a' := Reply.answer.inj ha
    have hbu : u.busy = false := by rw [hbusy]; exact hb
    have heu : u.engine.encodes = as.map .answer ++ rest := by rw [heng]; rfl
    obtain ⟨t, hrun, hk, htb, htr, htc, htl, hte, htcalls, htp, htd, hob, hob0⟩ :=
      ih (c + Config.UNIT) u rest hbu hc2 heu
    have ks : UnitKeeps s u := by
      refine UnitKeeps.trans ?_ k
      constructor <;> rfl
    refine ⟨t, ?_, ks.trans hk, htb, ?_, ?_, ?_, hte, ?_, ?_, ?_, ?_, ?_⟩
    · show unlessHung (encodeUnit c s) _ = _
      rw [hunit, unlessHung_next_of_idle _ hbu]
      exact hrun
    · rw [htr, hret]; rfl
    · rcases hcase with ⟨hst, _, hd, hch, _⟩ | ⟨hst, _, hd, hch, _⟩
      · rw [htc, hch, hd, framesFor, if_pos hst]
        simp only [State.setEngine_chain, State.setPhase_chain, State.setEngine_draws, State.setPhase_draws,
          List.append_assoc, List.singleton_append]
      · rw [htc, hch, hd, framesFor, if_neg hst]
        rfl
    · rcases hcase with ⟨hst, hl, _, _, _⟩ | ⟨hst, hl, _, _, _⟩
      · rw [htl, hl]
        simp [mismatchesFor, hst]
      · rw [htl, hl]
        simp [mismatchesFor, hst]
    · rw [htcalls, heng, List.length_cons, List.range_succ_eq_map, List.map_cons, List.map_map]
      simp only [State.setEngine_engine, State.setPhase_engine, State.setPhase_handle, List.append_assoc,
        List.singleton_append, ks.handle, Nat.mul_zero, Nat.add_zero]
      congr 2
      refine List.map_congr_left fun k _ => ?_
      simp only [Function.comp_apply, ks.slice, Nat.succ_eq_add_one]
      congr 2
      simp only [Config.UNIT]; omega
    · rw [htp, hphase]
      simp
    · rcases hcase with ⟨hst, _, hd, _, _⟩ | ⟨hst, _, hd, _, _⟩
      · rw [htd, hd]
        simp only [successCount, List.countP_cons, hst, decide_true, if_true, State.setEngine_draws,
          State.setPhase_draws]
        omega
      · rw [htd, hd]
        simp [successCount, hst]
    · intro p hp i h
      rcases hcase with ⟨hst, _, hd, _, ho⟩ | ⟨hst, _, hd, _, ho⟩
      · have hd' : u.draws = s.draws + 1 := hd
        rw [framesFor, if_pos hst] at hp
        by_cases hf : framesFor as (s.draws + 1) = []
        · rw [hf] at hp
          have : p = packFrame a.payload (Config.drawNibble s.draws) := by
            simpa [packedRecord, eq_comm] using hp
          rw [hob0 (by rw [hd']; exact hf) i, ho i h, this]
          rfl
        · rw [List.getLast?_cons_of_ne_nil hf] at hp
          exact hob p (by rw [hd']; exact hp) i h
      · have hd' : u.draws = s.draws := hd
        rw [framesFor, if_neg hst] at hp
        exact hob p (by rw [hd']; exact hp) i h
    · intro hf i
      rcases hcase with ⟨hst, _, hd, _, ho⟩ | ⟨hst, _, hd, _, ho⟩
      · rw [framesFor, if_pos hst] at hf
        cases hf
      · have hd' : u.draws = s.draws := hd
        rw [framesFor, if_neg hst] at hf
        rw [hob0 (by rw [hd']; exact hf) i]
        simp only [State.obAt, ho, k.stageEpoch]
        rfl

end Sys2Proof.Machine
end

