-- ==== Sys2Proof/Laws/Operations.lean ====
section
/-!
SUPPORT. Sys2Proof/Laws/Operations.lean: for each operation, everything it can do when it answers a next state; and for
a step, which operation it ran.
-/

namespace Sys2Proof.Machine

/-- A step that answers next took a hardware reset, or waited, or ran the operation of the first pending command. -/
theorem step_eq_next {s t : State} (h : step s = .next t) :
    (s.resetLine = true ∧ t = hardwareReset s) ∨ (s.resetLine = false ∧ s.inbox = [] ∧ t = s) ∨
      ∃ c rest i, s.resetLine = false ∧ s.inbox = c :: rest ∧ decode c = .ok i ∧
        exec i (s.setInbox rest) = .next t := by
  cases hr : s.resetLine with
  | true => simp only [step, hr, if_true] at h; exact .inl ⟨rfl, (Host.Outcome.next.inj h).symm⟩
  | false =>
    refine .inr ?_
    cases hi : s.inbox with
    | nil => simp only [step, fetch, hi, hr] at h; exact .inl ⟨rfl, rfl, (Host.Outcome.next.inj h).symm⟩
    | cons c rest =>
      simp only [step, fetch, hi, hr] at h
      cases hd : decode c with
      | error e => cases e; simp [hd] at h
      | ok i => exact .inr ⟨c, rest, i, rfl, rfl, hd, by simpa [hd] using h⟩

/-- What comes in on the host port is a public operation (R61). -/
theorem decode_host_public {c : Command} {i : Instr} (hp : c.port = .host) (h : decode c = .ok i) :
    isPublic i = true := by
  unfold decode at h
  rw [hp] at h
  split at h
  · cases h
  · cases h
    unfold decodePublic
    split <;> rfl
  · cases h
  · contradiction

/-- ACC.APPEND inside the capacity (R68). -/
theorem execAccAppend_eq {e : Nat} {d : List Sample} {s : State} (hb : s.busy = false)
    (hc : e + d.length ≤ Config.CAP) :
    execAccAppend e d s =
      .next ((((s.setSb (Memory.write s.sb e d)).dropAbove (e + d.length)).setCounts (e + d.length)
        (appendedDatalen s d.length)).finish (.count (e + d.length))) := by
  unfold execAccAppend
  rw [unlessRunning_open _ hb, append_eq hc, andThen_next]
  rfl

/-- ACC.COMPACT inside the buffer (R71). -/
theorem execAccCompact_eq {c r : Nat} {s : State} (hb : s.busy = false) (hc : c + r ≤ Config.CAP) :
    execAccCompact c r s =
      .next (((s.setSb (Memory.run 0 (s.slice c r))).setCounts r s.datalen).nextEpoch).finishVoid := by
  unfold execAccCompact
  rw [unlessRunning_open _ hb, compact_eq hc, andThen_next]

/-- RPK.ENC (R74). -/
theorem execRpkEnc_eq {f : Frame} {s : State} (hb : s.busy = false) :
    execRpkEnc f s =
      .next ((repackEncode f s).2.finish (.frame (packFrame f (Config.drawNibble s.draws)))) :=
  unlessRunning_open _ hb

/-- RPK.DEC (R81). -/
theorem execRpkDec_eq {q : Stride} {s : State} (hb : s.busy = false) :
    execRpkDec q s = .next ((repackDecode q s).2.finish (.frame (unpackFrame q))) :=
  unlessRunning_open _ hb

/-- CREATE in Uncreated (R90, R100): the engine's answer decides. -/
theorem create_eq {d : Dir} {s : State} (hd : s.dir = d) (hb : s.busy = false) (hl : s.life = .uncreated) :
    create d s = .next (created d (engineCreate d s.startOp).1 (engineCreate d s.startOp).2) := by
  unfold create
  rw [publicOp_open _ hd hb, ifUncreated_open _ hl]

/-- DESTROY without a handle (R97): no engine call. -/
theorem destroy_eq_none {d : Dir} {s : State} (hd : s.dir = d) (hb : s.busy = false) (hh : s.handle = none) :
    destroy d s = .next (discarded s.startOp) := by
  unfold destroy
  rw [publicOp_open _ hd hb]
  simp only [hh]

/-- DESTROY with a handle (R96, R107). -/
theorem destroy_eq_some {d : Dir} {s : State} {h : Handle} (hd : s.dir = d) (hb : s.busy = false)
    (hh : s.handle = some h) :
    destroy d s = .next (destroyed (engineDestroy d h s.startOp).1 (engineDestroy d h s.startOp).2) := by
  unfold destroy
  rw [publicOp_open _ hd hb]
  simp only [hh]

/-- What a creation that succeeds leaves, with the engine port `e` (R90, R100). -/
def createdLive (d : Dir) (id : Nat) (e : EnginePort) (s : State) : State :=
  { s with
    handle := some ⟨d, id⟩, samples := 0, datalen := 0, phase := .idle, life := .live, sb := [], ob := [], w := [],
    epoch := s.epoch + 1, stageEpoch := s.stageEpoch + 1, ret := some (.code .ok), chain := [], engine := e }

/-- What a creation that fails leaves (R128, R34). -/
def createdFailed (e : EnginePort) (s : State) : State :=
  { s with
    handle := none, samples := 0, datalen := 0, phase := .idle, life := .failed, sb := [], ob := [], w := [],
    epoch := s.epoch + 1, stageEpoch := s.stageEpoch + 1, ret := some (.code .fail), chain := [], engine := e }

/-- What DESTROY leaves (R96, R107). -/
def destroyedState (e : EnginePort) (s : State) : State :=
  { s with
    handle := none, samples := 0, datalen := 0, life := .destroyed, sb := [], ob := [], w := [],
    epoch := s.epoch + 1, stageEpoch := s.stageEpoch + 1, ret := some (.code .ok), chain := [], engine := e }

/-- An operation that waits for the engine forever, before it has changed anything but the engine port (R145). -/
def hungState (e : EnginePort) (s : State) : State :=
  { s with busy := true, ret := none, chain := [], engine := e }

theorem created_some (d : Dir) (id : Nat) (e : EnginePort) (s : State) :
    created d (.answer (some id)) (s.startOp.setEngine e) = createdLive d id e s := by
  simp only [created, createdLive, State.setHandle, State.setCounts, State.setPhase, State.setLife,
    State.discardBuffers, State.finish, State.setEngine, State.startOp]

theorem created_none (d : Dir) (e : EnginePort) (s : State) :
    created d (.answer none) (s.startOp.setEngine e) = createdFailed e s := by
  simp only [created, raiseEngineCreateFail, createdFailed, State.setHandle, State.setCounts, State.setPhase,
    State.setLife, State.discardBuffers, State.finish, State.setEngine, State.startOp]

theorem hang_setEngine (e : EnginePort) (s : State) : (s.startOp.setEngine e).hang = hungState e s := rfl

theorem discarded_setEngine (e : EnginePort) (s : State) :
    discarded (s.startOp.setEngine e) = destroyedState e s := by
  simp only [discarded, destroyedState, State.setHandle, State.setCounts, State.setLife, State.discardBuffers,
    State.finish, State.setEngine, State.startOp]

theorem discarded_startOp (s : State) : discarded s.startOp = destroyedState s.engine s :=
  discarded_setEngine s.engine s

theorem create_live {d : Dir} {id : Nat} {rest : List (Reply (Option Nat))} {s : State} (hd : s.dir = d)
    (hb : s.busy = false) (hl : s.life = .uncreated) (he : s.engine.creates = .answer (some id) :: rest) :
    create d s = .next (createdLive d id
      { s.engine with creates := rest, calls := s.engine.calls ++ [createCall d] } s) := by
  rw [create_eq hd hb hl, engineCreate_queued (s := s.startOp) he, created_some]
  rfl

theorem create_failed {d : Dir} {rest : List (Reply (Option Nat))} {s : State} (hd : s.dir = d)
    (hb : s.busy = false) (hl : s.life = .uncreated) (he : s.engine.creates = .answer none :: rest) :
    create d s = .next (createdFailed
      { s.engine with creates := rest, calls := s.engine.calls ++ [createCall d] } s) := by
  rw [create_eq hd hb hl, engineCreate_queued (s := s.startOp) he, created_none]
  rfl

theorem destroy_unheld {d : Dir} {s : State} (hd : s.dir = d) (hb : s.busy = false) (hh : s.handle = none) :
    destroy d s = .next (destroyedState s.engine s) := by
  rw [destroy_eq_none hd hb hh, discarded_startOp]

theorem destroy_answered {d : Dir} {h : Handle} {u : Unit} {rest : List (Reply Unit)} {s : State} (hd : s.dir = d)
    (hb : s.busy = false) (hh : s.handle = some h) (he : s.engine.destroys = .answer u :: rest) :
    destroy d s = .next (destroyedState
      { s.engine with destroys := rest, calls := s.engine.calls ++ [destroyCall d h] } s) := by
  rw [destroy_eq_some hd hb hh, engineDestroy_queued (s := s.startOp) he]
  simp only [destroyed, discarded_setEngine, State.startOp_engine]

theorem execAccAppend_eq_next {e : Nat} {d : List Sample} {s t : State} (h : execAccAppend e d s = .next t) :
    s.busy = false ∧ e + d.length ≤ Config.CAP ∧
      t = (((s.setSb (Memory.write s.sb e d)).dropAbove (e + d.length)).setCounts (e + d.length)
        (appendedDatalen s d.length)).finish (.count (e + d.length)) := by
  obtain ⟨hb, h⟩ := unlessRunning_eq_next.1 h
  obtain ⟨u, hu, ht⟩ := andThen_eq_next.1 h
  obtain ⟨hc, rfl⟩ := append_eq_next.1 hu
  exact ⟨hb, hc, (Host.Outcome.next.inj ht).symm⟩

theorem execAccCompact_eq_next {c r : Nat} {s t : State} (h : execAccCompact c r s = .next t) :
    s.busy = false ∧ c + r ≤ Config.CAP ∧
      t = (((s.setSb (Memory.run 0 (s.slice c r))).setCounts r s.datalen).nextEpoch).finishVoid := by
  obtain ⟨hb, h⟩ := unlessRunning_eq_next.1 h
  obtain ⟨u, hu, ht⟩ := andThen_eq_next.1 h
  obtain ⟨hc, rfl⟩ := compact_eq_next.1 hu
  exact ⟨hb, hc, (Host.Outcome.next.inj ht).symm⟩

theorem execRpkEnc_eq_next {f : Frame} {s t : State} (h : execRpkEnc f s = .next t) :
    s.busy = false ∧ ∃ m p, t = ((s.setOb m).takeDraw).finish (.frame p) ∧
      (Memory.wf 32 s.ob = true → Memory.wf 32 m = true) := by
  obtain ⟨hb, h⟩ := unlessRunning_eq_next.1 h
  obtain ⟨m, hm, hw⟩ := repackEncode_state f s
  rw [hm] at h
  exact ⟨hb, m, _, (Host.Outcome.next.inj h).symm, hw⟩

theorem execRpkDec_eq_next {q : Stride} {s t : State} (h : execRpkDec q s = .next t) :
    s.busy = false ∧ ∃ m p, t = (s.setW m).finish (.frame p) ∧
      (Memory.wf 32 s.w = true → Memory.wf 32 m = true) := by
  obtain ⟨hb, h⟩ := unlessRunning_eq_next.1 h
  obtain ⟨m, hm, hw⟩ := repackDecode_state q s
  rw [hm] at h
  exact ⟨hb, m, _, (Host.Outcome.next.inj h).symm, hw⟩

/-- CREATE (R90, R100): the create call, then a hang, the failure, or a live context. -/
theorem create_eq_next {d : Dir} {s t : State} (h : create d s = .next t) :
    s.dir = d ∧ s.busy = false ∧ s.life = .uncreated ∧
      ∃ e : EnginePort, e.calls = s.engine.calls ++ [createCall d] ∧
        (t = hungState e s ∨ t = createdFailed e s ∨ ∃ id, t = createdLive d id e s) := by
  obtain ⟨hd, hb, h⟩ := publicOp_eq_next.1 h
  obtain ⟨hl, h⟩ := ifUncreated_eq_next.1 h
  obtain ⟨e, he, hc⟩ := engineCreate_state d s.startOp
  refine ⟨hd, hb, hl, e, hc, ?_⟩
  have ht := Host.Outcome.next.inj h
  rw [he] at ht
  cases hr : (engineCreate d s.startOp).1 with
  | silent => rw [hr] at ht; exact .inl ht.symm
  | answer a =>
    rw [hr] at ht
    cases a with
    | none => exact .inr (.inl (ht.symm.trans (created_none d e s)))
    | some id => exact .inr (.inr ⟨id, ht.symm.trans (created_some d id e s)⟩)

/-- DESTROY (R96, R107): no call without a handle; with one the destroy call, then a hang or the end. -/
theorem destroy_eq_next {d : Dir} {s t : State} (h : destroy d s = .next t) :
    s.dir = d ∧ s.busy = false ∧
      ((s.handle = none ∧ t = destroyedState s.engine s) ∨
        ∃ hd, ∃ e : EnginePort, s.handle = some hd ∧ e.calls = s.engine.calls ++ [destroyCall d hd] ∧
          (t = hungState e s ∨ t = destroyedState e s)) := by
  obtain ⟨hd, hb, h⟩ := publicOp_eq_next.1 h
  refine ⟨hd, hb, ?_⟩
  cases hh : s.handle with
  | none =>
    simp only [hh] at h
    exact .inl ⟨rfl, (Host.Outcome.next.inj h).symm.trans (discarded_startOp s)⟩
  | some hdl =>
    simp only [hh] at h
    obtain ⟨e, he, hc⟩ := engineDestroy_state d hdl s.startOp
    have ht := Host.Outcome.next.inj h
    rw [he] at ht
    refine .inr ⟨hdl, e, rfl, hc, ?_⟩
    cases hr : (engineDestroy d hdl s.startOp).1 with
    | silent => rw [hr] at ht; exact .inl ht.symm
    | answer a => rw [hr] at ht; exact .inr (ht.symm.trans (discarded_setEngine e s))

theorem execEncFramein_eq_next {len n : BitVec 16} {d : List Sample} {s t : State}
    (h : execEncFramein len n d s = .next t) :
    s.dir = .enc ∧ s.busy = false ∧ s.life = .live ∧ len.toNat = 2 * n.toNat ∧ n.toNat ≤ d.length ∧
      s.samples + n.toNat ≤ Config.CAP ∧
      t = (((s.startOp.setSb (Memory.write s.sb s.samples (d.take n.toNat))).setCounts
        (s.samples + n.toNat) s.datalen).setPhase .accumulating).finish (.code .ok) := by
  obtain ⟨hd, hb, h⟩ := publicOp_eq_next.1 h
  obtain ⟨hl, h⟩ := ifLive_eq_next.1 h
  by_cases hlen : len.toNat = 2 * n.toNat
  · rw [if_pos hlen] at h
    by_cases hn : n.toNat ≤ d.length
    · simp only [readPcm, hn, if_true] at h
      obtain ⟨u, hu, ht⟩ := andThen_eq_next.1 h
      obtain ⟨hc, rfl⟩ := append_end_eq_next (s := s.startOp).1 hu
      have hk : (d.take n.toNat).length = n.toNat := by simp [hn]
      have ha : appendedDatalen s.startOp (d.take n.toNat).length = s.datalen := by
        simp [appendedDatalen, hd]
      rw [ha, hk] at ht
      rw [hk] at hc
      exact ⟨hd, hb, hl, hlen, hn, hc, (Host.Outcome.next.inj ht).symm⟩
    · simp only [readPcm, hn, if_false] at h
      cases h
  · rw [if_neg hlen] at h
    cases h

/-- ENC.FRAMEIN of a delivery that fits (R92). -/
theorem execEncFramein_eq {len n : BitVec 16} {d : List Sample} {s : State} (hb : s.busy = false)
    (hd : s.dir = .enc) (hl : s.life = .live) (hlen : len.toNat = 2 * n.toNat) (hn : d.length = n.toNat)
    (hc : s.samples + n.toNat ≤ Config.CAP) :
    execEncFramein len n d s =
      .next ((((s.startOp.setSb (Memory.write s.sb s.samples d)).setCounts
        (s.samples + n.toNat) s.datalen).setPhase .accumulating).finish (.code .ok)) := by
  have ht : d.take n.toNat = d := List.take_of_length_le (by omega)
  have hc' : s.samples + d.length ≤ Config.CAP := by rw [hn]; exact hc
  unfold execEncFramein
  rw [publicOp_open _ hd hb, ifLive_open _ hl, if_pos hlen]
  simp only [readPcm, Nat.le_of_eq hn.symm, if_true, ht, append_eq_end (s := s.startOp) hc' (Nat.le_add_right _ _), andThen_next]
  simp [appendedDatalen, hd, hn]

/-- ENC.FRAMEOUT (R94): the loop, then a hang, or the compaction of the leftover. -/
theorem execEncFrameout_eq_next {s t : State} (h : execEncFrameout s = .next t) :
    s.dir = .enc ∧ s.busy = false ∧ s.life = .live ∧
      ∃ u, encodeUnits (unitCount s.samples) 0 s.startOp = .next u ∧
        ((u.busy = true ∧ t = u) ∨
          (u.busy = false ∧ s.samples ≤ Config.CAP ∧
            t = ((((u.setSb (Memory.run 0 (u.slice (Config.UNIT * unitCount s.samples)
              (s.samples - Config.UNIT * unitCount s.samples)))).setCounts
              (s.samples - Config.UNIT * unitCount s.samples) u.datalen).nextEpoch).finish (.code .ok)))) := by
  obtain ⟨hd, hb, h⟩ := publicOp_eq_next.1 h
  obtain ⟨hl, h⟩ := ifLive_eq_next.1 h
  obtain ⟨u, hu, h⟩ := unlessHung_eq_next.1 h
  refine ⟨hd, hb, hl, u, hu, ?_⟩
  rcases h with h | ⟨hub, h⟩
  · exact .inl h
  · obtain ⟨v, hv, ht⟩ := andThen_eq_next.1 h
    obtain ⟨hc, rfl⟩ := compact_eq_next.1 hv
    have hle : Config.UNIT * unitCount s.samples ≤ s.samples := by
      simp only [unitCount]; exact Nat.mul_div_le _ _
    exact .inr ⟨hub, by omega, (Host.Outcome.next.inj ht).symm⟩

/-- ENC.FRAMEOUT once its loop has run to its end (R94). -/
theorem execEncFrameout_eq {s u : State} (hb : s.busy = false) (hd : s.dir = .enc) (hl : s.life = .live)
    (hc : s.samples ≤ Config.CAP) (hu : encodeUnits (unitCount s.samples) 0 s.startOp = .next u)
    (hub : u.busy = false) :
    execEncFrameout s =
      .next ((((u.setSb (Memory.run 0 (u.slice (Config.UNIT * unitCount s.samples)
        (s.samples - Config.UNIT * unitCount s.samples)))).setCounts
        (s.samples - Config.UNIT * unitCount s.samples) u.datalen).nextEpoch).finish (.code .ok)) := by
  have hle : Config.UNIT * unitCount s.samples ≤ s.samples := by
    simp only [unitCount]; exact Nat.mul_div_le _ _
  unfold execEncFrameout
  rw [publicOp_open _ hd hb, ifLive_open _ hl, hu, unlessHung_next_of_idle _ hub, compact_eq (by omega), andThen_next]

/-- DEC.FRAMEIN (R102): the loop, then a hang, or the return. -/
theorem execDecFramein_eq_next {len n : BitVec 16} {data : List Byte} {s t : State}
    (h : execDecFramein len n data s = .next t) :
    s.dir = .dec ∧ s.busy = false ∧ s.life = .live ∧
      ∃ u, decodeStrides data (strideCount len.toNat) 0 s.startOp = .next u ∧
        ((u.busy = true ∧ t = u) ∨
          (u.busy = false ∧ t = (u.setPhase .accumulating).finish (.code .ok))) := by
  obtain ⟨hd, hb, h⟩ := publicOp_eq_next.1 h
  obtain ⟨hl, h⟩ := ifLive_eq_next.1 h
  obtain ⟨u, hu, h⟩ := unlessHung_eq_next.1 h
  refine ⟨hd, hb, hl, u, hu, ?_⟩
  rcases h with h | ⟨hub, h⟩
  · exact .inl h
  · exact .inr ⟨hub, (Host.Outcome.next.inj h).symm⟩

/-- What DEC.FRAMEOUT leaves when there are samples (R105). -/
def handedOver (s : State) : State :=
  { s with
    chain := pcmRecords s.emitPerUnit s.datalen (s.slice 0 s.samples), sb := [], samples := 0, datalen := 0,
    epoch := s.epoch + 1, phase := .accumulating, ret := some (.code .ok) }

/-- Emitting a list of records appends it to the chain and does nothing else (R118). -/
theorem emitAll_eq (fs : List OutFrame) : ∀ s : State, emitAll fs s = { s with chain := s.chain ++ fs } := by
  induction fs with
  | nil => intro s; simp [emitAll]
  | cons f fs ih =>
    intro s
    have h : emitAll (f :: fs) s = emitAll fs (s.emit f) := rfl
    rw [h, ih]
    simp [State.emit]

/-- DEC.FRAMEOUT (R105): nothing, or the records, with both counters cleared. -/
theorem execDecFrameout_eq_next {s t : State} (h : execDecFrameout s = .next t) :
    s.dir = .dec ∧ s.busy = false ∧ s.life = .live ∧
      ((s.samples = 0 ∧ t = s.startOp.finish (.code .ok)) ∨
        (s.samples ≠ 0 ∧ s.samples ≤ Config.CAP ∧ t = handedOver s)) := by
  obtain ⟨hd, hb, h⟩ := publicOp_eq_next.1 h
  obtain ⟨hl, h⟩ := ifLive_eq_next.1 h
  refine ⟨hd, hb, hl, ?_⟩
  by_cases h0 : s.samples = 0
  · rw [if_pos h0] at h
    exact .inl ⟨h0, (Host.Outcome.next.inj h).symm⟩
  · rw [if_neg h0] at h
    by_cases hc : s.samples ≤ Config.CAP
    · rw [readSb_eq (by omega)] at h
      obtain ⟨v, hv, ht⟩ := andThen_eq_next.1 h
      obtain ⟨_, rfl⟩ := compact_eq_next.1 hv
      exact .inr ⟨h0, hc, (Host.Outcome.next.inj ht).symm.trans (by rw [emitAll_eq]; rfl)⟩
    · rw [readSb_none (by omega)] at h
      cases h

theorem execDecFrameout_eq {s : State} (hb : s.busy = false) (hd : s.dir = .dec) (hl : s.life = .live)
    (hc : s.samples ≤ Config.CAP) :
    execDecFrameout s = .next (if s.samples = 0 then s.startOp.finish (.code .ok) else handedOver s) := by
  unfold execDecFrameout
  rw [publicOp_open _ hd hb, ifLive_open _ hl]
  by_cases h0 : s.samples = 0
  · rw [if_pos h0, if_pos h0]
  · rw [if_neg h0, if_neg h0, readSb_eq (by omega)]
    show andThen (compact s.samples 0 _) _ = _
    rw [compact_eq (by omega), andThen_next, emitAll_eq]
    rfl

end Sys2Proof.Machine
end

