-- ==== Sys2Proof/Laws/PerInstr.lean ====
section
/-!
SUPPORT. Sys2Proof/Laws/PerInstr.lean: statements about every operation as syntax, one lemma per constructor.
-/

namespace Sys2Proof.Laws.CommandByte

/-- R56, R61: the command byte of an operation has no bit among 6, 5, 3 and 2 set; bit 7 is set for a
micro-operation and clear for a public one; and a public one stands on the host port, a micro-operation does not. -/
def Statement (i : Instr) : Prop :=
  cmdZeros (encode i).cmd = true ∧ cmdI (encode i).cmd = !Machine.isPublic i ∧
    (encode i).port = if Machine.isPublic i then .host else .internal

/-- What is left to look at is the byte itself. -/
theorem of_byte {i : Instr} (b : Byte) (v : Bool) (hb : (encode i).cmd = b) (hv : Machine.isPublic i = v)
    (h : cmdZeros b = true ∧ cmdI b = !v) (hp : (encode i).port = if v then .host else .internal) : Statement i := by
  subst hb hv
  exact ⟨h.1, h.2, hp⟩

theorem accAppend (existingCount : Nat) (newData : List Sample) : Statement (.accAppend existingCount newData) :=
  of_byte 0x80 false rfl rfl (by decide) rfl

theorem accCompact (consumedCount remainingCount : Nat) : Statement (.accCompact consumedCount remainingCount) :=
  of_byte 0x81 false rfl rfl (by decide) rfl

theorem rpkEnc (s : Frame) : Statement (.rpkEnc s) :=
  of_byte 0x82 false rfl rfl (by decide) rfl

theorem rpkDec (q : Stride) : Statement (.rpkDec q) :=
  of_byte 0x92 false rfl rfl (by decide) rfl

theorem encCreate : Statement .encCreate :=
  of_byte 0x00 true rfl rfl (by decide) rfl

theorem encFramein (len nsamp : BitVec 16) (data : List Sample) : Statement (.encFramein len nsamp data) :=
  of_byte 0x01 true rfl rfl (by decide) rfl

theorem encFrameout : Statement .encFrameout :=
  of_byte 0x02 true rfl rfl (by decide) rfl

theorem encDestroy : Statement .encDestroy :=
  of_byte 0x03 true rfl rfl (by decide) rfl

theorem decCreate : Statement .decCreate :=
  of_byte 0x10 true rfl rfl (by decide) rfl

theorem decFramein (len nsamp : BitVec 16) (data : List Byte) : Statement (.decFramein len nsamp data) :=
  of_byte 0x11 true rfl rfl (by decide) rfl

theorem decFrameout : Statement .decFrameout :=
  of_byte 0x12 true rfl rfl (by decide) rfl

theorem decDestroy : Statement .decDestroy :=
  of_byte 0x13 true rfl rfl (by decide) rfl

end Sys2Proof.Laws.CommandByte
end

