-- ==== Sys2Proof/Tests/Slice0.lean ====
section
/-!
SUPPORT. Sys2Proof/Tests/Slice0.lean: the model's own tests. Words and expected results come from the spec's encoding
(spec/30_encoding.md R56, R60) and from its vectors (spec/95_test_vectors.md, named V in the comments); each
statement with hypotheses has a witness here, named witness_<statement>.
-/

namespace Sys2Proof.Tests

open Sys2Proof.Machine

/-! ## Helpers -/

/-- A frame of `n` bytes from a list, zero where the list ends. -/
def bytes (n : Nat) (l : List Byte) : Vector Byte n := Vector.ofFn fun i => l.getD i.val 0

/-- A live context with the samples 0, 1, 2 and so on in its buffer. -/
def live (d : Dir) (n : Nat) : State :=
  { State.resetAs d with
    life := .live, phase := .accumulating, handle := some ⟨d, 9⟩, samples := n,
    datalen := (match d with | .enc => 0 | .dec => 2 * n),
    sb := Memory.run 0 ((List.range n).map (BitVec.ofNat 16)),
    engine := { EnginePort.reset with calls := [createCall d] } }

/-- The same with answers queued. -/
def encoding (n : Nat) (as : List EncodeAnswer) : State :=
  (live .enc n).setEngine { (live .enc n).engine with encodes := as.map .answer }

def decoding (n : Nat) (bs : List Block) : State :=
  (live .dec n).setEngine { (live .dec n).engine with decodes := bs.map .answer }

/-- A fresh context with an answer to its create transaction queued. -/
def creating (d : Dir) (r : Reply (Option Nat)) : State :=
  (State.resetAs d).setEngine { EnginePort.reset with creates := [r] }

/-- A live context with an answer to its destroy transaction queued. -/
def destroying (d : Dir) (r : Reply Unit) : State :=
  (live d 40).setEngine { (live d 40).engine with destroys := [r] }

/-- Something of the next state, if there is one. -/
def after {α : Type} (o : Outcome) (f : State → α) : Option α :=
  match o with
  | .next s => some (f s)
  | _ => none

/-- The reason of a stop, if there is one. -/
def stop (o : Outcome) : Option (Fault ⊕ Refusal) :=
  match o with
  | .next _ => none
  | .fault r => some (.inl r)
  | .refused r => some (.inr r)

/-- An engine answer with a status. -/
def status (v : Int) : EncodeAnswer := ⟨v, bytes 32 [0x3C, 0x16, 0x27]⟩

/-- A block of one value. -/
def block (v : Sample) : Block := Vector.replicate 160 v

/-- A command of the host with no operand. -/
def host (cmd : Byte) : Command := ⟨.host, cmd, zeroOperands⟩

/-! ## Well-formedness: an ill-formed term for each check -/

theorem test_wellformed_encFramein : Instr.wellFormed (.encFramein 4 2 [1, 2]) = true := by decide

/-- One sample for `nsamp = 2`. -/
theorem test_illformed_encFramein : Instr.wellFormed (.encFramein 4 2 [1]) = false := by decide

theorem test_wellformed_decFramein : Instr.wellFormed (.decFramein 3 0 [1, 2, 3]) = true := by decide

/-- Four bytes for `len = 3`. -/
theorem test_illformed_decFramein : Instr.wellFormed (.decFramein 3 0 [1, 2, 3, 4]) = false := by decide

/-! ## Decoding: the byte of every constructor, written out from R60's columns I 0 0 D 0 0 FN FN -/

theorem test_decode_accAppend : decodeTableWord 8 0b10000000 = some (.accAppend 0 []) := by decide
theorem test_decode_accAppend_dec : decodeTableWord 8 0b10010000 = some (.accAppend 0 []) := by decide
theorem test_decode_accCompact : decodeTableWord 8 0b10000001 = some (.accCompact 0 0) := by decide
theorem test_decode_accCompact_dec : decodeTableWord 8 0b10010001 = some (.accCompact 0 0) := by decide
theorem test_decode_rpkEnc : decodeTableWord 8 0b10000010 = some (.rpkEnc (bytes 32 [])) := by decide
theorem test_decode_rpkDec : decodeTableWord 8 0b10010010 = some (.rpkDec (bytes 31 [])) := by decide
theorem test_decode_encCreate : decodeTableWord 8 0b00000000 = some .encCreate := by decide
theorem test_decode_encFramein : decodeTableWord 8 0b00000001 = some (.encFramein 0 0 []) := by decide
theorem test_decode_encFrameout : decodeTableWord 8 0b00000010 = some .encFrameout := by decide
theorem test_decode_encDestroy : decodeTableWord 8 0b00000011 = some .encDestroy := by decide
theorem test_decode_decCreate : decodeTableWord 8 0b00010000 = some .decCreate := by decide
theorem test_decode_decFramein : decodeTableWord 8 0b00010001 = some (.decFramein 0 0 []) := by decide
theorem test_decode_decFrameout : decodeTableWord 8 0b00010010 = some .decFrameout := by decide
theorem test_decode_decDestroy : decodeTableWord 8 0b00010011 = some .decDestroy := by decide

/-- V8.6: a bit among 6, 5, 3 and 2 is set. -/
theorem test_decode_reserved_host :
    ∀ b ∈ [0x04, 0x08, 0x20, 0x40, 0x0C, 0x60, 0x7F], decode (host b) = .error (.reservedCommand b) := by decide

/-- V8.7: micro-operations on the host port. -/
theorem test_decode_micro_on_host :
    ∀ b ∈ [0x80, 0x81, 0x82, 0x90, 0x91, 0x92], decode (host b) = .error (.reservedCommand b) := by decide

/-- V8.8: the unassigned function number on the internal path. -/
theorem test_decode_micro_unassigned :
    ∀ b ∈ [0x83, 0x93], decode ⟨.internal, b, zeroOperands⟩ = .error (.reservedCommand b) := by decide

/-- R54: a delivery is the first `nsamp` samples of the port's stream. -/
theorem test_decode_takes_delivery :
    decode ⟨.host, 0x01, { zeroOperands with len := 4, nsamp := 2, samples := [7, 8, 9] }⟩ =
      .ok (.encFramein 4 2 [7, 8]) := by decide

/-! ## The accumulator -/

/-- V2.1: four samples into an empty buffer. -/
theorem test_append_first :
    after (exec (.accAppend 0 [5, -5, 32767, -32768]) State.reset)
      (fun t => ((List.range 4).map t.sampleAt, t.samples, t.ret)) =
      some ([5, -5, 32767, -32768], 4, some (.count 4)) := by decide

/-- V2.6: one sample more than the buffer holds. -/
theorem test_append_full : stop (exec (.accAppend 8000 [1]) State.reset) = some (.inl .bufferOverrun) := by
  decide

/-- R23: two of six samples stay, the one written after them, and nothing above is listed. -/
theorem test_append_lowers_count :
    after (exec (.accAppend 2 [9]) { State.reset with sb := Memory.run 0 [1, 2, 3, 4, 5, 6], samples := 6 })
      (fun t => (t.sb, t.samples, t.epoch)) = some ([(0, 1), (1, 2), (2, 9)], 3, 1) := by decide

/-- V2.10: an overlapping move; a copy from the top down would give 5, 6, 5, 6. -/
theorem test_compact_overlap :
    after (exec (.accCompact 2 4) { State.reset with sb := Memory.run 0 [1, 2, 3, 4, 5, 6], samples := 6 })
      (fun t => ((List.range 4).map t.sampleAt, t.samples)) = some ([3, 4, 5, 6], 4) := by decide

/-- V2.11: the last element to the front. -/
theorem test_compact_last :
    after (exec (.accCompact 7999 1) { State.reset with sb := [(7999, -1)], samples := 8000 })
      (fun t => (t.sampleAt 0, t.samples, t.sb)) = some (-1, 1, [(0, -1)]) := by decide

/-! ## The repackers -/

/-- The storage frame of V3.1. -/
def v31 : Frame := bytes 32
  ([0x3C, 0x16, 0x27, 0x38, 0x49, 0x5A, 0x6B, 0x7C, 0x8D, 0x9E, 0xAF, 0xB0, 0xC1, 0xD2, 0xE3, 0xF4] ++
   [0x05, 0x16, 0x27, 0x38, 0x49, 0x5A, 0x6B, 0x7C, 0x8D, 0x9E, 0xAF, 0xB0, 0xC1, 0xD2, 0xE3, 0xF4])

/-- The packed frame of V3.1, its 31 significant bytes. -/
def v31packed : List Byte :=
  [0xC1, 0x62, 0x73, 0x84, 0x95, 0xA6, 0xB7, 0xC8, 0xD9, 0xEA, 0xFB, 0x0C, 0x1D, 0x2E, 0x3F, 0x40] ++
  [0x51, 0x62, 0x73, 0x84, 0x95, 0xA6, 0xB7, 0xC8, 0xD9, 0xEA, 0xFB, 0x0C, 0x1D, 0x2E, 0x3F]

/-- V3.1 with `g = 5`. -/
theorem test_pack_general : (packFrame v31 5).toList = v31packed ++ [0x45] := by decide

/-- V3.6: bytes 0, 29 and 30 as RPK.ENC leaves them in `OB`, whatever the draw. -/
theorem test_rpkEnc_tail :
    after (exec (.rpkEnc (bytes 32 ([0x3C] ++ List.replicate 29 0 ++ [0xAB, 0xCD]))) State.reset)
      (fun t => (t.obAt 0, t.obAt 29, t.obAt 30)) = some (0xC0, 0x0A, 0xBC) := by decide

/-- V4.1. -/
theorem test_unpack_general :
    (unpackFrame (bytes 31 v31packed)).toList =
      [0x3C, 0x16, 0x27, 0x38, 0x49, 0x5A, 0x6B, 0x7C, 0x8D, 0x9E, 0xAF, 0xB0, 0xC1, 0xD2, 0xE3, 0xF4] ++
      [0x05, 0x16, 0x27, 0x38, 0x49, 0x5A, 0x6B, 0x7C, 0x8D, 0x9E, 0xAF, 0xB0, 0xC1, 0xD2, 0xE3, 0xF0] := by decide

/-- V4.3: the header is `0x3C` whatever the first nibble, the pad nibble is 0. -/
theorem test_rpkDec_ones :
    after (exec (.rpkDec (Vector.replicate 31 0xFF)) State.reset)
      (fun t => (t.ret, t.wAt 0, t.wAt 1, t.wAt 31)) =
      some (some (.frame (bytes 32 ([0x3C] ++ List.replicate 30 0xFF ++ [0xF0]))), 0x3C, 0xFF, 0xF0) := by decide

/-- R15, R50: the header byte. -/
theorem test_header : headerByte = Config.HDR := by decide

/-! ## The encode driver -/

/-- V6.1. -/
theorem test_encCreate_ok :
    after (exec .encCreate (creating .enc (.answer (some 9))))
      (fun t => (t.life, t.phase, t.samples, t.handle, t.result)) =
      some (.live, .idle, 0, some ⟨.enc, 9⟩, some .ok) := by decide

/-- V6.2. -/
theorem test_encCreate_fail :
    after (exec .encCreate (creating .enc (.answer none))) (fun t => (t.life, t.handle, t.samples, t.result)) =
      some (.failed, none, 0, some .fail) := by decide

/-- V6.7: a delivery of nothing. -/
theorem test_encFramein_empty :
    after (exec (.encFramein 0 0 []) ((live .enc 0).setPhase .idle)) (fun t => (t.samples, t.phase, t.result)) =
      some (0, .accumulating, some .ok) := by decide

/-- V8.14: the life cycle is checked before the lengths. -/
theorem test_encFramein_priority :
    stop (exec (.encFramein 100 60 []) ((live .enc 0).setLife .destroyed)) = some (.inr .notLive) := by decide

/-- V6.4: one unit and one sample left over. -/
theorem test_encFrameout_leftover :
    after (exec .encFrameout (encoding 161 [status 32]))
      (fun t => (t.samples, t.sampleAt 0, t.chain.map fun f => (f.datalen, f.samples))) =
      some (1, 160, [(32, 160)]) := by decide

/-- V6.11: two engine errors. -/
theorem test_encFrameout_errors :
    after (exec .encFrameout (encoding 320 [status 0, status 33]))
      (fun t => (t.samples, t.chain.length, t.log, t.result)) =
      some (0, 0, [.encodeStatusMismatch 0, .encodeStatusMismatch 33], some .ok) := by decide

/-- V6.13. -/
theorem test_encDestroy_live :
    after (exec .encDestroy (destroying .enc (.answer ())))
      (fun t => (t.life, t.samples, t.handle, t.engine.calls.drop 1)) =
      some (.destroyed, 0, none, [.destroyEncoder ⟨.enc, 9⟩]) := by decide

/-- V6.15: no engine call without a handle. -/
theorem test_encDestroy_uncreated :
    after (exec .encDestroy State.reset) (fun t => (t.life, t.engine, t.result)) =
      some (.destroyed, EnginePort.reset, some .ok) := by decide

/-! ## The decode driver -/

/-- P3, step 1. -/
theorem test_decCreate_ok :
    after (exec .decCreate (creating .dec (.answer (some 9)))) (fun t => (t.life, t.datalen, t.handle)) =
      some (.live, 0, some ⟨.dec, 9⟩) := by decide

/-- V7.15. -/
theorem test_decCreate_fail :
    after (exec .decCreate (creating .dec (.answer none))) (fun t => (t.life, t.result)) =
      some (.failed, some .fail) := by decide

/-- V7.2: less than a stride. -/
theorem test_decFramein_short :
    after (exec (.decFramein 30 0 (List.replicate 30 0xFF)) (live .dec 0))
      (fun t => (t.samples, t.engine.calls, t.phase, t.result)) =
      some (0, [.createDecoder], .accumulating, some .ok) := by decide

/-- V7.5, V7.6: two strides and two bytes that are dropped. -/
theorem test_decFramein_two :
    after (exec (.decFramein 64 0 (List.replicate 64 0x11)) (decoding 0 [block 5, block 6]))
      (fun t => (t.samples, t.datalen, t.sampleAt 159, t.sampleAt 160, t.chain)) =
      some (320, 640, 5, 6, []) := by decide +kernel

/-- V7.12. -/
theorem test_decFrameout_one :
    after (exec .decFrameout (live .dec 320))
      (fun t => (t.chain.map fun f => (f.datalen, f.samples), t.samples, t.datalen, t.engine.calls)) =
      some ([(640, 320)], 0, 0, [.createDecoder]) := by decide +kernel

/-- D11: the alternative that hands one record of 160 samples over for each unit. -/
theorem test_decFrameout_per_unit :
    after (exec .decFrameout { live .dec 320 with emitPerUnit := true })
      (fun t => t.chain.map fun f => (f.datalen, f.samples)) = some [(320, 160), (320, 160)] := by decide +kernel

/-- V7.14. -/
theorem test_decDestroy_live :
    after (exec .decDestroy (destroying .dec (.answer ())))
      (fun t => (t.life, t.samples, t.datalen, t.engine.calls.getLast?)) =
      some (.destroyed, 0, 0, some (.destroyDecoder ⟨.dec, 9⟩)) := by decide

/-- V8.11: a public operation of the other direction. -/
theorem test_decDestroy_wrong : stop (exec .decDestroy (live .enc 0)) = some (.inr .wrongDirection) := by
  decide

/-! ## Witnesses: a state and operands that meet the hypotheses of each statement -/

/-- For its first branch an assigned byte on the internal path; for its second a byte with a bit among 6, 5, 3, 2,
the unassigned micro-operation, and a byte with bit 7 on the host port. -/
theorem witness_ReservedBytesRefused :
    (BitVec.toNat (0x80 : Byte) ∈
      [0x00, 0x01, 0x02, 0x03, 0x10, 0x11, 0x12, 0x13, 0x80, 0x90, 0x81, 0x91, 0x82, 0x92]) ∧
    Port.internal ≠ Port.host ∧
    (BitVec.toNat (0x04 : Byte) ∉
      [0x00, 0x01, 0x02, 0x03, 0x10, 0x11, 0x12, 0x13, 0x80, 0x90, 0x81, 0x91, 0x82, 0x92]) ∧
    (BitVec.toNat (0x83 : Byte) ∉
      [0x00, 0x01, 0x02, 0x03, 0x10, 0x11, 0x12, 0x13, 0x80, 0x90, 0x81, 0x91, 0x82, 0x92]) ∧
    BitVec.getLsbD (0x80 : Byte) 7 = true ∧ (State.reset.setInbox [host 0x80]).resetLine = false ∧
    (State.reset.setInbox [host 0x80]).inbox = ⟨.host, 0x80, zeroOperands⟩ :: [] := by decide

/-- Deliveries at both ends of their range. -/
theorem witness_DecodeEncodeAgree :
    (Instr.encFramein 0 0 []).wellFormed = true ∧ (Instr.encFramein 4 2 [7, 8]).wellFormed = true ∧
      (Instr.decFramein 2 0 [7, 8]).wellFormed = true ∧ Instr.decDestroy.wellFormed = true := by decide

theorem witness_StepRunsDecodedOperation :
    (State.reset.setInbox [host 0x00]).inbox = host 0x00 :: [] ∧ decode (host 0x00) = .ok .encCreate ∧
      (State.reset.setInbox [host 0x00]).resetLine = false ∧
      State.reset.inbox = [] ∧ State.reset.resetLine = false := by decide

theorem witness_PlacedWordRuns :
    decodeTableWord 8 0x13 = some .decDestroy ∧ decodeTableWord 8 0x92 = some (.rpkDec (bytes 31 [])) := by decide

/-- For the four statements about the two repackers, whose bytes 0, 1, 30 and 31 are the ends of their clauses. -/
theorem witness_PackedFrameBytes : State.reset.busy = false ∧ 0 < 31 ∧ 30 < 31 := by decide
theorem witness_RepackEncodeFrame : (live .enc 8000).busy = false ∧ 31 < 32 ∧ 32 ≤ 32 := by decide
theorem witness_StorageFrameBytes : State.reset.busy = false ∧ 1 ≤ 1 ∧ 1 < 31 ∧ 1 ≤ 30 ∧ 30 < 31 := by decide
theorem witness_RepackDecodeFrame : (live .dec 160).busy = false ∧ 31 < 32 ∧ 32 ≤ 32 := by decide

/-- The first 31 bytes of a packed frame. -/
theorem witness_RepackRoundTrips :
    ∀ (i : Nat) (h : i < 31), (bytes 31 v31packed)[i] = (packFrame v31 7)[i] := by decide

/-- The append that fills the buffer exactly, at the count of the state. -/
theorem witness_AppendStoresContiguously :
    (live .enc 7840).busy = false ∧ (live .enc 7840).samples ≤ 7840 + (List.replicate 160 (1 : Sample)).length ∧ 7840 + (List.replicate 160 (1 : Sample)).length ≤ Config.CAP ∧
      (0x80 : Byte) = 0x80 ∧ (0x90 : Byte) = 0x90 := by decide +kernel

/-- One sample written at 0 over 160, and one that leaves the count one lower. -/
theorem witness_AppendDropsAboveCount :
    (live .enc 160).busy = false ∧ 0 + ([1] : List Sample).length ≤ Config.CAP ∧
      0 + ([1] : List Sample).length < (live .enc 160).samples ∧
      158 + ([1] : List Sample).length < (live .enc 160).samples := by decide

theorem witness_AppendCountsBytesInDecode :
    (live .dec 0).busy = false ∧ 7999 + ([1] : List Sample).length ≤ Config.CAP ∧ (live .dec 0).dir = .dec := by
  decide

/-- The last element, and one beyond it. -/
theorem witness_CompactMovesToFront :
    State.reset.busy = false ∧ 7999 + 1 ≤ Config.CAP ∧ Config.CAP < 7999 + 2 := by decide

/-- 60 and 100 samples in one delivery or in two. -/
theorem witness_DeliveriesJoin :
    (live .enc 7840).busy = false ∧ (live .enc 7840).dir = .enc ∧ (live .enc 7840).life = .live ∧
      (120 : BitVec 16).toNat = 2 * (60 : BitVec 16).toNat ∧ (200 : BitVec 16).toNat = 2 * (100 : BitVec 16).toNat ∧
      (320 : BitVec 16).toNat = 2 * (160 : BitVec 16).toNat ∧
      (List.replicate 60 (1 : Sample)).length = (60 : BitVec 16).toNat ∧
      (List.replicate 100 (2 : Sample)).length = (100 : BitVec 16).toNat ∧
      (160 : BitVec 16).toNat = (60 : BitVec 16).toNat + (100 : BitVec 16).toNat ∧
      (live .enc 7840).samples + (160 : BitVec 16).toNat ≤ Config.CAP := by decide

/-- Either answer of the engine. -/
theorem witness_EncCreateEffect :
    (∀ r ∈ [Reply.answer (some 9), Reply.answer none], (creating .enc r).busy = false ∧
      (creating .enc r).dir = .enc ∧ (creating .enc r).life = .uncreated ∧
      (creating .enc r).engine.creates = r :: []) := by decide

theorem witness_DecCreateEffect :
    (∀ r ∈ [Reply.answer (some 9), Reply.answer none], (creating .dec r).busy = false ∧
      (creating .dec r).dir = .dec ∧ (creating .dec r).life = .uncreated ∧
      (creating .dec r).engine.creates = r :: []) := by decide

/-- Both directions, and a state in which the counter is not 0. -/
theorem witness_FailedCreateLeaves :
    (∀ s ∈ [creating .enc (.answer none), (creating .enc (.answer none)).setCounts 3 0],
      s.busy = false ∧ s.dir = .enc ∧ s.life = .uncreated ∧ s.engine.creates = .answer none :: []) ∧
    (creating .dec (.answer none)).busy = false ∧ (creating .dec (.answer none)).dir = .dec ∧
      (creating .dec (.answer none)).life = .uncreated ∧
      (creating .dec (.answer none)).engine.creates = .answer none :: [] := by decide

theorem witness_UnqueuedAnswerIsFree :
    State.reset.busy = false ∧ State.reset.life = .uncreated ∧ State.reset.engine.creates = [] ∧
      State.reset.dir = .enc ∧ (State.resetAs .dec).engine.creates = [] ∧ (State.resetAs .dec).dir = .dec := by
  decide

/-- With a handle, and without one. -/
theorem witness_EncDestroyEffect :
    (destroying .enc (.answer ())).busy = false ∧ (destroying .enc (.answer ())).dir = .enc ∧
      (destroying .enc (.answer ())).handle = some ⟨.enc, 9⟩ ∧
      (destroying .enc (.answer ())).engine.destroys = .answer () :: [] ∧
      State.reset.busy = false ∧ State.reset.dir = .enc ∧ State.reset.handle = none := by decide

theorem witness_DecDestroyEffect :
    (destroying .dec (.answer ())).busy = false ∧ (destroying .dec (.answer ())).dir = .dec ∧
      (destroying .dec (.answer ())).handle = some ⟨.dec, 9⟩ ∧
      (destroying .dec (.answer ())).engine.destroys = .answer () :: [] ∧
      (State.resetAs .dec).busy = false ∧ (State.resetAs .dec).handle = none := by decide

theorem witness_WrongDirectionRefused :
    (live .dec 0).busy = false ∧ (live .dec 0).dir = .dec ∧ (live .enc 0).busy = false ∧
      (live .enc 0).dir = .enc := by decide

/-- Both directions; alive and not. -/
theorem witness_LifeCycleGates :
    State.reset.busy = false ∧ State.reset.dir = .enc ∧ State.reset.life ≠ .live ∧
      (live .dec 0).busy = false ∧ (live .dec 0).dir = .dec ∧ (live .dec 0).life ≠ .uncreated := by decide

/-- A micro-operation, an operation of the context's direction, and one of the other. -/
theorem witness_NoSecondOperationWhileRunning :
    (live .enc 160).hang.busy = true ∧ publicDir (.accCompact 0 0) = none ∧
      publicDir .encFrameout = some (live .enc 160).hang.dir ∧ publicDir .decFrameout ≠ none ∧
      publicDir .decFrameout ≠ some (live .enc 160).hang.dir := by decide

/-- V6.9: the delivery that fills the buffer exactly. -/
theorem witness_EncFrameinAppends :
    (live .enc 159).busy = false ∧ (live .enc 159).dir = .enc ∧ (live .enc 159).life = .live ∧
      (15682 : BitVec 16).toNat = 2 * (7841 : BitVec 16).toNat ∧
      (live .enc 159).samples + (7841 : BitVec 16).toNat ≤ Config.CAP := by decide

/-- Its delivery, and a small one whose every clause can be looked at. -/
theorem witness_EncFrameinAppends_delivery :
    (List.replicate 7841 (1 : Sample)).length = (7841 : BitVec 16).toNat ∧
      (4 : BitVec 16).toNat = 2 * (2 : BitVec 16).toNat ∧ ([7, 8] : List Sample).length = (2 : BitVec 16).toNat ∧
      (live .enc 0).samples + (2 : BitVec 16).toNat ≤ Config.CAP := by
  refine ⟨List.length_replicate, ?_⟩
  decide

theorem witness_LengthMismatchRefused :
    (live .enc 0).busy = false ∧ (live .enc 0).dir = .enc ∧ (live .enc 0).life = .live ∧
      (100 : BitVec 16).toNat ≠ 2 * (60 : BitVec 16).toNat := by decide

/-- One unit and one sample; and no whole unit. -/
theorem witness_EncFrameoutDrains :
    (∀ s ∈ [encoding 161 [status 32], encoding 320 [status 31, status 32]],
      s.busy = false ∧ s.dir = .enc ∧ s.life = .live ∧ s.samples ≤ Config.CAP) ∧
    [status 32].length = (encoding 161 [status 32]).samples / 160 ∧
    (encoding 161 [status 32]).engine.encodes = [status 32].map .answer ++ [] ∧
    [status 31, status 32].length = (encoding 320 [status 31, status 32]).samples / 160 ∧
    (encoding 320 [status 31, status 32]).engine.encodes = [status 31, status 32].map .answer ++ [] ∧
    ([] : List EncodeAnswer).length = (encoding 159 []).samples / 160 ∧
    (encoding 159 []).engine.encodes = ([] : List EncodeAnswer).map .answer ++ [] := by decide

/-- V6.12: 100 samples there, 60 and 100 delivered. -/
theorem witness_DrainPointsIrrelevant :
    (encoding 100 [status 32]).busy = false ∧ (encoding 100 [status 32]).dir = .enc ∧
      (encoding 100 [status 32]).life = .live ∧
      (120 : BitVec 16).toNat = 2 * (60 : BitVec 16).toNat ∧ (200 : BitVec 16).toNat = 2 * (100 : BitVec 16).toNat ∧
      (List.replicate 60 (1 : Sample)).length = (60 : BitVec 16).toNat ∧
      (List.replicate 100 (2 : Sample)).length = (100 : BitVec 16).toNat ∧
      (encoding 100 [status 32]).samples + (60 : BitVec 16).toNat + (100 : BitVec 16).toNat ≤ Config.CAP ∧
      [status 32].length =
        ((encoding 100 [status 32]).samples + (60 : BitVec 16).toNat + (100 : BitVec 16).toNat) / 160 ∧
      (encoding 100 [status 32]).engine.encodes = [status 32].map .answer ++ [] := by decide

/-- The first statement's operation returns. -/
theorem witness_FrameCountConservation :
    after (exec .encFrameout (encoding 161 [status 32])) (fun t => t.busy) = some false := by decide

/-- A delivery of two strides and two bytes more, and one of no stride. -/
theorem witness_DecFrameinAppendsBlocks :
    (decoding 7680 [block 5, block 6]).busy = false ∧ (decoding 7680 [block 5, block 6]).dir = .dec ∧
      (decoding 7680 [block 5, block 6]).life = .live ∧
      (List.replicate 64 (0x11 : Byte)).length = (64 : BitVec 16).toNat ∧
      [block 5, block 6].length = (64 : BitVec 16).toNat / 31 ∧
      (decoding 7680 [block 5, block 6]).samples + 160 * ((64 : BitVec 16).toNat / 31) ≤ Config.CAP ∧
      (List.replicate 30 (0x11 : Byte)).length = (30 : BitVec 16).toNat ∧
      ([] : List Block).length = (30 : BitVec 16).toNat / 31 := by decide

theorem witness_DecFrameinAppendsBlocks_queue :
    (decoding 7680 [block 5, block 6]).engine.decodes = [block 5, block 6].map .answer ++ [] ∧
      (live .dec 0).engine.decodes = ([] : List Block).map .answer ++ [] := by
  exact ⟨rfl, rfl⟩

/-- One sample too many, for each of the three operations. -/
theorem witness_OverrunHasNoNextState :
    Config.CAP < 7841 + (List.replicate 160 (1 : Sample)).length ∧ (live .enc 8000).busy = false ∧
      (live .enc 8000).dir = .enc ∧ (live .enc 8000).life = .live ∧
      (2 : BitVec 16).toNat = 2 * (1 : BitVec 16).toNat ∧ ([7] : List Sample).length = (1 : BitVec 16).toNat ∧
      Config.CAP < (live .enc 8000).samples + (1 : BitVec 16).toNat ∧
      (decoding 7840 [block 5, block 6]).busy = false ∧ (decoding 7840 [block 5, block 6]).dir = .dec ∧
      (decoding 7840 [block 5, block 6]).life = .live ∧
      (List.replicate 62 (0x11 : Byte)).length = (62 : BitVec 16).toNat ∧
      [block 5, block 6].length = (62 : BitVec 16).toNat / 31 ∧
      (decoding 7840 [block 5, block 6]).samples ≤ Config.CAP ∧
      Config.CAP < (decoding 7840 [block 5, block 6]).samples + 160 * ((62 : BitVec 16).toNat / 31) := by decide +kernel

theorem witness_OverrunHasNoNextState_queue :
    (decoding 7840 [block 5, block 6]).engine.decodes = [block 5, block 6].map .answer ++ [] := rfl

/-- One element less than the count says; short in the first stride, in the second one by a byte, and in the trailing
bytes only (len 30 with 10 bytes, len 64 with 62). -/
theorem witness_ShortDeliveryFaults :
    (live .enc 0).busy = false ∧ (live .enc 0).dir = .enc ∧ (live .enc 0).life = .live ∧
      (4 : BitVec 16).toNat = 2 * (2 : BitVec 16).toNat ∧ ([7] : List Sample).length < (2 : BitVec 16).toNat ∧
      (decoding 0 [block 5]).busy = false ∧ (decoding 0 [block 5]).dir = .dec ∧ (decoding 0 [block 5]).life = .live ∧
      (List.replicate 30 (0 : Byte)).length < 31 * ((31 : BitVec 16).toNat / 31) ∧
      ([] : List Block).length = (List.replicate 30 (0 : Byte)).length / 31 ∧
      (List.replicate 61 (0 : Byte)).length < 31 * ((62 : BitVec 16).toNat / 31) ∧
      [block 5].length = (List.replicate 61 (0 : Byte)).length / 31 ∧
      31 * ((30 : BitVec 16).toNat / 31) ≤ (List.replicate 10 (0 : Byte)).length ∧
      31 * ((64 : BitVec 16).toNat / 31) ≤ (List.replicate 62 (0 : Byte)).length := by decide

theorem witness_ShortDeliveryFaults_queue :
    (decoding 0 [block 5]).engine.decodes = [block 5].map .answer ++ [] ∧
      (live .dec 0).engine.decodes = ([] : List Block).map .answer ++ [] := ⟨rfl, rfl⟩

/-- Two deliveries that differ in the byte after their one full stride. -/
theorem witness_TrailingBytesIgnored :
    (List.replicate 31 (0x11 : Byte) ++ [0]).length = (32 : BitVec 16).toNat ∧
      (List.replicate 31 (0x11 : Byte) ++ [1]).length = (32 : BitVec 16).toNat ∧
      (List.replicate 31 (0x11 : Byte) ++ [0]).take (31 * ((32 : BitVec 16).toNat / 31)) =
        (List.replicate 31 (0x11 : Byte) ++ [1]).take (31 * ((32 : BitVec 16).toNat / 31)) := by decide

/-- Nothing accumulated, and two units, with either setting of DEC_EMIT_PER_UNIT. -/
theorem witness_DecFrameoutHandsOver :
    (∀ s ∈ [live .dec 0, live .dec 320, { live .dec 320 with emitPerUnit := true }],
      s.busy = false ∧ s.dir = .dec ∧ s.life = .live ∧ s.samples ≤ Config.CAP) ∧
    (live .dec 0).samples = 0 ∧ (live .dec 320).samples ≠ 0 ∧ (live .dec 320).emitPerUnit = false := by decide

/-- An engine that is silent at its second unit. -/
def silentAtSecondUnit : State :=
  (live .enc 320).setEngine { EnginePort.reset with encodes := [.answer (status 32), .silent] }

/-- An engine that is silent at its second stride. -/
def silentAtSecondStride : State :=
  (live .dec 160).setEngine { EnginePort.reset with decodes := [.answer (block 5), .silent] }

/-- A silent engine at each of the calls: at once, at the first and at the second unit or stride. -/
theorem witness_SilentEngineHoldsOperation :
    (∀ d ∈ [Dir.enc, Dir.dec], (creating d .silent).busy = false ∧ (creating d .silent).dir = d ∧
      (creating d .silent).life = .uncreated ∧ (creating d .silent).engine.creates = .silent :: [] ∧
      (destroying d .silent).busy = false ∧ (destroying d .silent).dir = d ∧
      (destroying d .silent).handle = some ⟨d, 9⟩ ∧ (destroying d .silent).engine.destroys = .silent :: []) ∧
    silentAtSecondUnit.busy = false ∧ silentAtSecondUnit.dir = .enc ∧ silentAtSecondUnit.life = .live ∧
      silentAtSecondUnit.samples ≤ Config.CAP ∧ [status 32].length < silentAtSecondUnit.samples / 160 ∧
      ([] : List EncodeAnswer).length < (live .enc 160).samples / 160 ∧
      silentAtSecondStride.busy = false ∧ silentAtSecondStride.dir = .dec ∧ silentAtSecondStride.life = .live ∧
      (List.replicate 62 (0 : Byte)).length = (62 : BitVec 16).toNat ∧
      [block 5].length < (62 : BitVec 16).toNat / 31 ∧ ([] : List Block).length < (31 : BitVec 16).toNat / 31 ∧
      silentAtSecondStride.samples + 160 * [block 5].length ≤ Config.CAP := by decide

theorem witness_SilentEngineHoldsOperation_queue :
    silentAtSecondUnit.engine.encodes = [status 32].map .answer ++ .silent :: [] ∧
      silentAtSecondStride.engine.decodes = [block 5].map .answer ++ .silent :: [] := ⟨rfl, rfl⟩

/-- Operations whose calls are all answered, and which have a next state. -/
theorem witness_AnsweredOperationsReturn :
    (encoding 161 [status 32]).busy = false ∧ engineResponds .encFrameout (encoding 161 [status 32]) = true ∧
      (after (exec .encFrameout (encoding 161 [status 32])) fun _ => ()) = some () ∧
      engineResponds .encCreate (creating .enc (.answer none)) = true ∧
      (after (exec .encCreate (creating .enc (.answer none))) fun _ => ()) = some () := by decide

/-- The bound of each kind of operation, met exactly. -/
theorem witness_NoFaultWithinCapacity :
    (live .enc 8000).samples ≤ Config.CAP ∧ withinCapacity (.accAppend 7999 [1]) (live .enc 8000) ∧
      withinCapacity (.accCompact 7999 1) (live .enc 8000) ∧ withinCapacity .encFrameout (live .enc 8000) ∧
      withinCapacity (.encFramein 4 2 [7, 8]) (live .enc 7998) ∧
      withinCapacity (.decFramein 32 0 (List.replicate 32 0)) (live .dec 7840) := by
  simp only [withinCapacity]
  decide

/-- A step of an operation, and a waiting one. -/
theorem witness_DirectionIsConstant :
    (after (step ((live .enc 0).setInbox [host 0x02])) fun t => t.inbox) = some [] ∧
      step State.reset = .next State.reset := ⟨by decide, rfl⟩

/-- The three changes of `life`. -/
theorem witness_LifeTransitions :
    after (exec .encCreate (creating .enc (.answer (some 9)))) (fun t => decide (t.life ≠ .uncreated)) = some true ∧
      after (exec .decCreate (creating .dec (.answer none))) (fun t => decide (t.life ≠ .uncreated)) = some true ∧
      after (exec .decDestroy (State.resetAs .dec)) (fun t => decide (t.life ≠ .uncreated)) = some true := by decide

/-- Both results. -/
theorem witness_PublicResultCodes :
    isPublic .encFrameout = true ∧
      after (exec .encFrameout (live .enc 0)) (fun t => (t.busy, t.result)) = some (false, some .ok) ∧
      isPublic .decCreate = true ∧
      after (exec .decCreate (creating .dec (.answer none))) (fun t => (t.busy, t.result)) =
        some (false, some .fail) := by decide

theorem witness_OnlyEncFrameoutLogs :
    after (exec .encFrameout (encoding 160 [status 31])) (fun t => t.log) = some [.encodeStatusMismatch 31] ∧
      after (exec .encDestroy State.reset) (fun t => t.log) = some [] := by decide

theorem witness_EngineCallsWellFormed :
    after (step ((encoding 160 [status 32]).setInbox [host 0x02])) (fun t => t.engine.calls.length) = some 2 := by
  decide

theorem witness_OneEngineLifetimeKept : (live .enc 160).OneLifetime ∧ (State.resetAs .dec).OneLifetime ∧
    (live .enc 160).resetLine = false ∧ State.reset.resetLine = false ∧ step State.reset = .next State.reset := by
  refine ⟨?_, ?_, ?_, ?_, ?_⟩
  · constructor <;> decide
  · constructor <;> decide
  · rfl
  · rfl
  · rfl

theorem witness_HardwareResetEffect : ((live .enc 160).hang.setResetLine true).resetLine = true := by decide

/-- R146 beside R145: the reset of a live context whose engine never answered, with a command pending. -/
theorem test_hardware_reset :
    after (step (((live .enc 160).hang.setInbox [host 0x00]).setResetLine true))
      (fun t => (t.life, t.handle, t.samples, t.busy, t.inbox)) =
      some (.uncreated, none, 0, false, [host 0x00]) := by decide

theorem witness_CanonicalBuffersKept : (live .enc 160).Canonical ∧ step State.reset = .next State.reset := ⟨by decide, rfl⟩

/-- A full unit, and a step of the append that lowers the count. -/
theorem witness_NothingKnownAboveCount : (live .enc 160).KnownBelowCount ∧
    after (step ((live .enc 160).setInbox [⟨.internal, 0x80, zeroOperands⟩])) (fun t => (t.sb, t.samples)) =
      some ([], 0) := by decide +kernel

/-- A live context with a pending delivery. -/
theorem witness_BoundaryInvariantKept : ((live .dec 320).setInbox [host 0x12]).Boundary ∧
    after (step ((live .dec 320).setInbox [host 0x12])) (fun t => t.samples) = some 0 := by
  refine ⟨?_, by decide +kernel⟩
  constructor
  case handleKind => intro h e; cases e; rfl
  all_goals decide +kernel

end Sys2Proof.Tests
end

section
/-!
PROOFS. The family 30_encoding.md: which commands decode (R60 to R62), and that a public operation belongs to one
direction (R63).
-/

namespace Sys2Proof.Machine

/-! ## Which commands decode -/

/-- The one function number that stands for no micro-operation (R62(b)). -/
theorem exists_decodeMicro_iff {d : Dir} {fn : BitVec 2} {o : Operands} :
    (∃ i, decodeMicro d fn o = some i) ↔ fn ≠ 3 := by
  unfold decodeMicro
  split <;> simp_all

/-- The bytes of R60's table, by the fields of R56: the four zero bits are clear, and a byte with `I = 1` has an
assigned `FN`. Both sides are looked at byte by byte. -/
theorem mem_table_iff : ∀ cmd : Byte,
    cmd.toNat ∈ [0x00, 0x01, 0x02, 0x03, 0x10, 0x11, 0x12, 0x13, 0x80, 0x90, 0x81, 0x91, 0x82, 0x92] ↔
      cmdZeros cmd = true ∧ (cmdI cmd = true → cmdFN cmd ≠ 3) := by decide

/-- R61, R62: a command decodes exactly if its four zero bits are clear and, for a micro-operation, it stands on the
internal path with an assigned `FN`. -/
theorem exists_decode_iff {c : Command} :
    (∃ i, decode c = .ok i) ↔
      cmdZeros c.cmd = true ∧ (cmdI c.cmd = true → cmdFN c.cmd ≠ 3) ∧ ¬ (c.port = .host ∧ cmdI c.cmd = true) := by
  obtain ⟨port, cmd, args⟩ := c
  cases hz : cmdZeros cmd with
  | false => simp [decode, hz]
  | true =>
    cases hi : cmdI cmd with
    | false => simp [decode, hz, hi]
    | true =>
      cases port with
      | host => simp [decode, hz, hi]
      | internal =>
        rw [← exists_decodeMicro_iff (d := cmdD cmd) (o := args)]
        cases hm : decodeMicro (cmdD cmd) (cmdFN cmd) args <;> simp [decode, hz, hi, hm]

/-- A command that does not decode is rejected by its own byte. -/
theorem decode_eq_reserved {c : Command} (h : ¬ ∃ i, decode c = .ok i) :
    decode c = .error (.reservedCommand c.cmd) := by
  unfold decode at h ⊢
  split at h
  · rfl
  · exact absurd ⟨_, rfl⟩ h
  · rfl
  · split at h
    · exact absurd ⟨_, rfl⟩ h
    · rfl

/-- R62: a pending command that has no operation is refused as it was rejected. -/
theorem step_refused_of_reserved {s : State} {c : Command} {rest : List Command} {b : Byte}
    (hr : s.resetLine = false) (hi : s.inbox = c :: rest) (hd : decode c = .error (.reservedCommand b)) :
    step s = .refused (.reservedCommand b) := by
  simp [step, fetch, hr, hi, hd]

/-! ## The direction of a public operation -/

/-- R63: every public operation passes the gate of its own direction first. -/
theorem exec_eq_publicOp {i : Instr} {d : Dir} (s : State) (h : publicDir i = some d) :
    ∃ k, exec i s = publicOp d s k := by
  cases i with
  | accAppend | accCompact | rpkEnc | rpkDec => cases h
  | encCreate | encFramein | encFrameout | encDestroy | decCreate | decFramein | decFrameout | decDestroy =>
    cases h
    exact ⟨_, rfl⟩

/-- The gate of a direction in a context of the other one; what is running does not matter. -/
theorem publicOp_otherDir {d : Dir} {s : State} (k : Outcome) (h : s.dir ≠ d) :
    publicOp d s k = .refused .wrongDirection := if_pos h

/-- R63: a public operation in a context of the other direction. -/
theorem exec_wrongDirection {i : Instr} {d : Dir} {s : State} (hi : publicDir i = some d) (hd : s.dir ≠ d) :
    exec i s = .refused .wrongDirection := by
  obtain ⟨k, hk⟩ := exec_eq_publicOp s hi
  rw [hk, publicOp_otherDir k hd]

/-! ## The two statements -/

/-- Settles O2: the fields a command decodes by are those of R60's table and of R61. -/
theorem reservedBytesRefused : Obligations.ReservedBytesRefused := by
  intro port cmd args
  have hdec : (∃ i, decode ⟨port, cmd, args⟩ = .ok i) ↔
      cmd.toNat ∈ [0x00, 0x01, 0x02, 0x03, 0x10, 0x11, 0x12, 0x13, 0x80, 0x90, 0x81, 0x91, 0x82, 0x92] ∧
        ¬ (port = .host ∧ cmd.getLsbD 7 = true) := by
    rw [exists_decode_iff, mem_table_iff, and_assoc]
    rfl
  split
  next h => exact hdec.2 h
  next h =>
    intro s rest hr hi
    exact step_refused_of_reserved hr hi (decode_eq_reserved (mt hdec.1 h))

/-- Settles O23: `publicDir` names each operation's direction, and the gate of that direction refuses. -/
theorem wrongDirectionRefused : Obligations.WrongDirectionRefused := by
  intro s len nsamp pcm packed _
  constructor
  · intro hd i hi
    have hp : publicDir i = some .enc := by
      simp only [List.mem_cons, List.not_mem_nil, or_false] at hi
      rcases hi with rfl | rfl | rfl | rfl <;> rfl
    exact exec_wrongDirection hp (by simp [hd])
  · intro hd i hi
    have hp : publicDir i = some .dec := by
      simp only [List.mem_cons, List.not_mem_nil, or_false] at hi
      rcases hi with rfl | rfl | rfl | rfl <;> rfl
    exact exec_wrongDirection hp (by simp [hd])

end Sys2Proof.Machine
end

section
/-!
PROOFS. The family 40_accumulator.md: what ACC.APPEND stores and leaves alone (R68), and that an append beyond the
capacity has no next state (R70, R130).
-/

namespace Sys2Proof.Machine

/-! ## The command bytes of ACC.APPEND -/

/-- R61: function number 0 of the micro-operations is ACC.APPEND, whatever the `D` bit. -/
theorem decodeMicro_zero (d : Dir) (o : Operands) : decodeMicro d 0 o = some (.accAppend o.count o.samples) := by
  cases d <;> rfl

/-- R61: a byte with `I` set, its zero bits clear and `FN = 0` is ACC.APPEND on the internal path. -/
theorem decode_accAppend {cmd : Byte} (o : Operands) (hz : cmdZeros cmd = true) (hi : cmdI cmd = true)
    (hf : cmdFN cmd = 0) : decode ⟨.internal, cmd, o⟩ = .ok (.accAppend o.count o.samples) := by
  simp only [decode, hz, hi, hf, decodeMicro_zero]

/-! ## Memory rules of an append -/

/-- R68: element `k` of what was written at `a` is read back at `a + k`. -/
theorem sampleAt_write_add (s : State) (a : Nat) {d : List Sample} {k : Nat} (h : k < d.length) :
    (s.setSb (Memory.write s.sb a d)).sampleAt (a + k) = d[k] := by
  have hin : a ≤ a + k ∧ a + k < a + d.length := by omega
  rw [sampleAt_write, if_pos hin, Nat.add_sub_cancel_left, List.getD_eq_getElem d 0 h]

/-- R37: everything outside the range written stays. -/
theorem sampleAt_write_outside (s : State) {a i : Nat} {d : List Sample} (h : i < a ∨ a + d.length ≤ i) :
    (s.setSb (Memory.write s.sb a d)).sampleAt i = s.sampleAt i := by
  have hout : ¬ (a ≤ i ∧ i < a + d.length) := by omega
  rw [sampleAt_write, if_neg hout]

/-- R25: an append leaves `datalen` of an encode context alone. -/
theorem appendedDatalen_enc {s : State} (n : Nat) (h : s.dir = .enc) : appendedDatalen s n = s.datalen := by
  simp only [appendedDatalen, h]

/-! ## The append beyond the capacity -/

/-- R70: ACC.APPEND beyond the capacity. -/
theorem execAccAppend_overrun {e : Nat} {d : List Sample} {s : State} (hb : s.busy = false)
    (hc : Config.CAP < e + d.length) : execAccAppend e d s = .fault .bufferOverrun := by
  unfold execAccAppend
  rw [unlessRunning_open _ hb, append_overrun hc, andThen_fault]

/-- R130: ENC.FRAMEIN of a whole delivery that does not fit. -/
theorem execEncFramein_overrun {len n : BitVec 16} {d : List Sample} {s : State} (hb : s.busy = false)
    (hd : s.dir = .enc) (hl : s.life = .live) (hlen : len.toNat = 2 * n.toNat) (hn : d.length = n.toNat)
    (hc : Config.CAP < s.samples + n.toNat) : execEncFramein len n d s = .fault .bufferOverrun := by
  have hread : readPcm d n.toNat = some d := by
    rw [readPcm, if_pos hn.ge, List.take_of_length_le hn.le]
  have hover : append s.samples d s.startOp = .fault .bufferOverrun := append_overrun (by rwa [hn])
  unfold execEncFramein
  simp only [publicOp_open _ hd hb, ifLive_open _ hl, if_pos hlen, hread, hover, andThen_fault]

/-- DEC.FRAMEIN whose loop faults (R102). -/
theorem execDecFramein_fault {len n : BitVec 16} {data : List Byte} {s : State} {r : Fault} (hb : s.busy = false)
    (hd : s.dir = .dec) (hl : s.life = .live)
    (h : decodeStrides data (strideCount len.toNat) 0 s.startOp = .fault r) :
    execDecFramein len n data s = .fault r := by
  unfold execDecFramein
  rw [publicOp_open _ hd hb, ifLive_open _ hl, h, unlessHung, andThen_fault]

/-! ## The two statements -/

/-- Settles O12: ACC.APPEND is a write at `existing`, a drop above the new count and the new counts; each clause reads
one of these. -/
theorem appendStoresContiguously : Obligations.AppendStoresContiguously := by
  constructor
  · rintro cmd args (rfl | rfl)
    · exact decode_accAppend args (by decide) (by decide) (by decide)
    · exact decode_accAppend args (by decide) (by decide) (by decide)
  · intro existing d s hb hc
    refine ⟨_, execAccAppend_eq hb hc, rfl, rfl, ?stored, ?below, ?above, ?datalen, ?frame⟩
    case stored =>
      intro k hk
      rw [State.finish_sampleAt, State.setCounts_sampleAt, State.dropAbove_sampleAt (by omega),
        sampleAt_write_add s existing hk]
    case below =>
      intro i hi
      rw [State.finish_sampleAt, State.setCounts_sampleAt, State.dropAbove_sampleAt (by omega),
        sampleAt_write_outside s (.inl hi)]
    case above =>
      intro hs i hi
      rw [State.finish_sampleAt, State.setCounts_sampleAt, State.dropAbove_of_le (by simpa using hs),
        sampleAt_write_outside s (.inr hi)]
    case datalen => exact appendedDatalen_enc d.length
    case frame => simp [SameOb, SameW, SameLife, SameContext]

/-- Settles O32: each of the three operations appends at or beyond the capacity; DEC.FRAMEIN faults in the stride whose
block crosses it. -/
theorem overrunHasNoNextState : Obligations.OverrunHasNoNextState := by
  refine ⟨fun existing d s => execAccAppend_overrun, fun len nsamp d s => execEncFramein_overrun, ?_⟩
  intro len nsamp data bs rest s hb hd hl hdata hbs hq hs hc
  have hfit : Config.PSTRIDE * 0 + Config.PSTRIDE * bs.length ≤ data.length := by
    simp only [Config.PSTRIDE]; omega
  have hloop : decodeStrides data bs.length (Config.PSTRIDE * 0) s.startOp = .fault .bufferOverrun :=
    decodeStrides_overrun bs 0 s.startOp rest hb hfit hq hs (by rwa [hbs])
  rw [hbs] at hloop
  exact execDecFramein_fault (n := nsamp) hb hd hl hloop

end Sys2Proof.Machine
end

section
/-!
PROOFS. The family 41_repack_encode.md: RPK.ENC completes and shifts the frame left by one nibble (R76, R77).
-/

namespace Sys2Proof.Machine

/-- R77: each RPK.ENC uses exactly one draw, so that the next one draws afresh. -/
@[simp] theorem repackEncode_draws (f : Frame) (s : State) : (repackEncode f s).2.draws = s.draws + 1 := by
  obtain ⟨m, hm, -⟩ := repackEncode_state f s
  rw [hm, State.takeDraw_draws, State.setOb_draws]

/-- RPK.ENC as an operation of `exec`: with nothing running it returns the packed frame (R74). -/
theorem exec_rpkEnc (f : Frame) {s : State} (hb : s.busy = false) :
    exec (.rpkEnc f) s =
      .next ((repackEncode f s).2.finish (.frame (packFrame f (Config.drawNibble s.draws)))) :=
  execRpkEnc_eq hb

/-- Settles O6: the frame returned is `packFrame` of the operand and of the draw numbered `s.draws`, whose bytes
R76 and R77 name. -/
theorem packedFrameBytes : Obligations.PackedFrameBytes := by
  intro f s hb
  refine ⟨_, packFrame f (Config.drawNibble s.draws), exec_rpkEnc f hb, State.finish_ret _ _, ?shifted, ?last, ?drawn⟩
  case shifted => exact packFrame_get f _
  case last => exact packFrame_last f _
  case drawn => rw [State.finish_draws, repackEncode_draws]

end Sys2Proof.Machine
end

section
/-!
PROOFS. The family 42_repack_decode.md: RPK.DEC rebuilds the storage frame (R83 to R85), the two round trips of the
repackers (R89), and that the bytes after the last full stride have no influence (R88).
-/

namespace Sys2Proof.Machine

/-! ## The nibbles of a rebuilt storage frame -/

/-- R84: the low nibble of byte `i` is the high nibble of the stride's byte `i`. -/
theorem lo4_unpackFrame (q : Stride) {i : Nat} (h0 : 0 < i) (h : i < 31) : lo4 (unpackFrame q)[i] = hi4 q[i] := by
  rw [unpackFrame_get q i h0 h, lo4_joinNibbles]

/-- R84, R85: the high nibble of byte `i + 1` is the low nibble of the stride's byte `i`, the last byte included. -/
theorem hi4_unpackFrame_succ (q : Stride) {i : Nat} (h : i < 31) : hi4 (unpackFrame q)[i + 1] = lo4 q[i] := by
  by_cases h30 : i = 30
  · subst h30
    rw [unpackFrame_last, hi4_joinNibbles]
  · rw [unpackFrame_get q (i + 1) (by omega) (by omega), hi4_joinNibbles]
    rfl

/-! ## The two round trips -/

/-- R89: unpacking undoes packing on bytes 1 to 30; each byte's nibbles return to their places. -/
theorem unpackFrame_packed_get {s : Frame} {g : Nibble} {q : Stride}
    (hq : ∀ (i : Nat) (h : i < 31), q[i] = (packFrame s g)[i]) {i : Nat} (h0 : 0 < i) (h : i < 31) :
    (unpackFrame q)[i] = s[i] := by
  have hhigh : lo4 q[i - 1] = hi4 s[i] := by
    rw [hq (i - 1) (by omega), packFrame_get s g (i - 1) (by omega), lo4_joinNibbles]
    simp only [Nat.sub_add_cancel h0]
  have hlow : hi4 q[i] = lo4 s[i] := by rw [hq i h, packFrame_get s g i h, hi4_joinNibbles]
  rw [unpackFrame_get q i h0 h, hhigh, hlow, joinNibbles_hi4_lo4]

/-- R85, R89: the last byte keeps its high nibble, the draw is not in the stride and the pad nibble is zero. -/
theorem unpackFrame_packed_last {s : Frame} {g : Nibble} {q : Stride}
    (hq : ∀ (i : Nat) (h : i < 31), q[i] = (packFrame s g)[i]) :
    (unpackFrame q)[31] = joinNibbles (hi4 s[31]) 0 := by
  rw [unpackFrame_last, hq 30 (by decide), packFrame_get s g 30 (by decide), lo4_joinNibbles]

/-- R83, R89: the first nibble of a repacked stride is the low nibble of the header. -/
theorem packFrame_unpacked_first (q : Stride) (g : Nibble) :
    (packFrame (unpackFrame q) g)[0] = joinNibbles 0xC (lo4 q[0]) := by
  rw [packFrame_get _ g 0 (by decide), unpackFrame_header, hi4_unpackFrame_succ q (by decide)]
  rfl

/-- R89: packing undoes unpacking on bytes 1 to 30. -/
theorem packFrame_unpacked_get (q : Stride) (g : Nibble) {i : Nat} (h0 : 0 < i) (h : i < 31) :
    (packFrame (unpackFrame q) g)[i] = q[i] := by
  rw [packFrame_get _ g i h, lo4_unpackFrame q h0 h, hi4_unpackFrame_succ q h, joinNibbles_hi4_lo4]

/-- R77, R85: the last byte of a repacked stride is the pad nibble over the draw. -/
theorem packFrame_unpacked_last (q : Stride) (g : Nibble) :
    (packFrame (unpackFrame q) g)[31] = joinNibbles 0 g := by
  rw [packFrame_last, unpackFrame_last, lo4_joinNibbles]

/-! ## The full strides of a delivery -/

/-- R87, R88, R102: DEC.FRAMEIN depends on its data by the bytes of the full strides only, and not on `nsamp`. -/
theorem execDecFramein_congr {len : BitVec 16} (n n' : BitVec 16) {data data' : List Byte} (s : State)
    (hl : data.length = data'.length)
    (h : ∀ i, i < Config.PSTRIDE * strideCount len.toNat → data[i]? = data'[i]?) :
    execDecFramein len n data s = execDecFramein len n' data' s := by
  have hloop := decodeStrides_congr hl (strideCount len.toNat) 0 s.startOp fun i hi => h i (by omega)
  unfold execDecFramein
  rw [hloop]

/-! ## The three statements -/

/-- Settles O8: the frame returned is `unpackFrame` of the operand, whose bytes R83, R84 and R85 name. -/
theorem storageFrameBytes : Obligations.StorageFrameBytes := by
  intro q s hb
  exact ⟨_, unpackFrame q, execRpkDec_eq hb, State.finish_ret _ _, unpackFrame_header q, unpackFrame_get q,
    unpackFrame_last q⟩

/-- Settles O10: both repackers move every nibble by one place, in opposite directions; what falls out at an end is
replaced by the header, the pad nibble or the draw. -/
theorem repackRoundTrips : Obligations.RepackRoundTrips := by
  constructor
  · intro s g q hq
    exact ⟨unpackFrame_header q, fun _ => unpackFrame_packed_get hq, unpackFrame_packed_last hq⟩
  · intro q g
    exact ⟨packFrame_unpacked_first q g, fun _ => packFrame_unpacked_get q g, packFrame_unpacked_last q g⟩

/-- Settles O34: the stride loop reads below `31 * floor(len / 31)` only, where the two deliveries agree. -/
theorem trailingBytesIgnored : Obligations.TrailingBytesIgnored := by
  intro len nsamp nsamp' data data' s hlen hlen' htake
  refine execDecFramein_congr nsamp nsamp' s (hlen.trans hlen'.symm) fun i hi => ?_
  have hi' : i < 31 * (len.toNat / 31) := hi
  rw [← List.getElem?_take_of_lt (l := data) hi', htake, List.getElem?_take_of_lt hi']

end Sys2Proof.Machine
end

section
/-!
PROOFS. The family 43_driver_encode.md: what ENC.CREATE (R90), ENC.FRAMEIN (R92), ENC.FRAMEOUT (R94) and ENC.DESTROY
(R96) do, and the command byte of each.
-/

namespace Sys2Proof.Machine

/-! ## The command bytes of the public operations -/

/-- R60, R61: a byte whose zero bits and `I` are clear is the public operation of its `D` and `FN`, on either port. -/
theorem decode_public {cmd : Byte} (p : Port) (o : Operands) (hz : cmdZeros cmd = true) (hi : cmdI cmd = false) :
    decode ⟨p, cmd, o⟩ = .ok (decodePublic (cmdD cmd) (cmdFN cmd) o) := by
  simp only [decode, hz, hi]

/-- R60: a public byte of an operation that takes no operands. -/
theorem hostByte_of_fields {cmd : Byte} {i : Instr} (hz : cmdZeros cmd = true) (hi : cmdI cmd = false)
    (h : ∀ o, decodePublic (cmdD cmd) (cmdFN cmd) o = i) : HostByte cmd i := by
  intro o
  rw [decode_public .host o hz hi, h]

/-! ## Creation and destruction, of either direction -/

/-- R90, R100: an operation that is CREATE of direction `d` has CREATE's effect; every clause is a field of what
the engine's answer leaves. -/
theorem createEffect_of_exec {d : Dir} {i : Instr} (hi : ∀ s, exec i s = create d s) :
    CreateEffect d (createCall d) i := by
  intro s hb hd hl
  constructor
  · intro id rest he
    refine ⟨_, (hi s).trans (create_live hd hb hl he), ?_⟩
    simp [createdLive, State.result, SameContext]
  · intro rest he
    refine ⟨_, (hi s).trans (create_failed hd hb hl he), ?_⟩
    simp [createdFailed, State.result, SameContext]

/-- R96, R97, R107: an operation that is DESTROY of direction `d` has DESTROY's effect; the two cases differ in the
engine port only. -/
theorem destroyEffect_of_exec {d : Dir} {i : Instr} (hi : ∀ s, exec i s = destroy d s) :
    DestroyEffect d (destroyCall d) i := by
  intro s hb hd
  constructor
  · intro h u rest hh he
    refine ⟨_, (hi s).trans (destroy_answered hd hb hh he), ?_⟩
    simp [destroyedState, State.result, SameContext]
  · intro hh
    refine ⟨_, (hi s).trans (destroy_unheld hd hb hh), ?_⟩
    simp [destroyedState, State.result, SameContext]

/-! ## The loop of ENC.FRAMEOUT -/

/-- R94: a unit uses the queue of encode answers and the list of transactions; the rest of the engine port stays. -/
theorem UnitKeeps.engine_eq {s t : State} (h : UnitKeeps s t) :
    t.engine = { s.engine with encodes := t.engine.encodes, calls := t.engine.calls } := by
  simp only [← h.creates, ← h.decodes, ← h.destroys]

/-! ## The four statements -/

/-- Settles O17: ENC.CREATE is CREATE of the encode direction. -/
theorem encCreateEffect : Obligations.EncCreateEffect :=
  ⟨hostByte_of_fields (by decide) (by decide) fun _ => rfl, createEffect_of_exec fun _ => rfl⟩

/-- Settles O21: ENC.DESTROY is DESTROY of the encode direction. -/
theorem encDestroyEffect : Obligations.EncDestroyEffect :=
  ⟨hostByte_of_fields (by decide) (by decide) fun _ => rfl, destroyEffect_of_exec fun _ => rfl⟩

/-- Settles O26: ENC.FRAMEIN writes the delivery at `samples` and adds its length to the counter; every sample clause
reads that one write. -/
theorem encFrameinAppends : Obligations.EncFrameinAppends := by
  constructor
  · intro args
    exact decode_public .host args (by decide) (by decide)
  · intro len nsamp d s hb hd hl hlen hn hc
    refine ⟨_, execEncFramein_eq hb hd hl hlen hn hc, rfl, rfl, rfl, ?delivered, ?elsewhere, ?frame⟩
    case delivered =>
      intro k hk
      rw [State.finish_sampleAt, State.setPhase_sampleAt, State.setCounts_sampleAt]
      exact sampleAt_write_add s.startOp s.samples hk
    case elsewhere =>
      intro i hi
      rw [State.finish_sampleAt, State.setPhase_sampleAt, State.setCounts_sampleAt]
      exact sampleAt_write_outside s.startOp (by omega)
    case frame => simp [SameOb, SameW, SameContext]

/-- Settles O28: the loop's law gives calls, frames, log and `OB`; the compaction after it moves the leftover and
changes nothing else. -/
theorem encFrameoutDrains : Obligations.EncFrameoutDrains := by
  refine ⟨hostByte_of_fields (by decide) (by decide) fun _ => rfl, ?_⟩
  intro as rest s hb hd hl hc hlen he
  have hfit : 0 + Config.UNIT * as.length ≤ Config.CAP := by
    simp only [Config.UNIT, hlen]; omega
  obtain ⟨u, hrun, keeps, hub, -, hchain, hlog, hencodes, hcalls, hphase, hdraws, hlast, hnone⟩ :=
    encodeUnits_answered as 0 s.startOp rest hb hfit he
  have hunits : ∀ k, s.startOp.slice (0 + Config.UNIT * k) Config.UNIT = s.unit k := by
    intro k; rw [Nat.zero_add]; rfl
  simp only [hlen, hunits] at hrun hcalls hphase
  have hframes : u.chain = framesFor as s.draws := by simpa using hchain
  refine ⟨_, execEncFrameout_eq hb hd hl hc hrun hub, rfl, ?frames, ?log, ?engine, rfl, ?leftover, ?phase, ?draws,
    ?lastFrame, ?noFrame, ?rest⟩
  case frames => simpa using hframes
  case log => simpa using hlog
  case engine =>
    rw [State.finish_engine, State.nextEpoch_engine, State.setCounts_engine, State.setSb_engine, keeps.engine_eq,
      hencodes, hcalls]
    rfl
  case leftover =>
    intro k (hk : k < s.samples - Config.UNIT * unitCount s.samples)
    rw [State.finish_sampleAt, sampleAt_compacted _ _ _ _ _ _ hk, keeps.sampleAt]
    rfl
  case phase => simpa using hphase
  case draws => simpa using hdraws
  case lastFrame => simpa [hframes] using hlast
  case noFrame => simpa [hframes, SameOb] using hnone
  case rest =>
    simp [SameW, SameContext, keeps.life, keeps.handle, keeps.datalen, keeps.wAt, keeps.dir, keeps.emitPerUnit,
      keeps.inbox, keeps.resetLine, hub, hb]

end Sys2Proof.Machine
end

section
/-!
PROOFS. The family 44_driver_decode.md: what DEC.CREATE (R100), DEC.FRAMEIN (R102) and DEC.FRAMEOUT (R105, R106) do,
and the command byte of each.
-/

namespace Sys2Proof.Machine

/-! ## DEC.FRAMEIN -/

/-- R102: a stride uses the queue of decode answers and the list of transactions; the rest of the engine port stays. -/
theorem StrideKeeps.engine_eq {s t : State} (h : StrideKeeps s t) :
    t.engine = { s.engine with decodes := t.engine.decodes, calls := t.engine.calls } := by
  simp only [← h.creates, ← h.encodes, ← h.destroys]

/-- DEC.FRAMEIN once its loop has run to its end (R102). -/
theorem execDecFramein_eq {len : BitVec 16} (n : BitVec 16) {data : List Byte} {s u : State} (hb : s.busy = false)
    (hd : s.dir = .dec) (hl : s.life = .live)
    (hu : decodeStrides data (strideCount len.toNat) 0 s.startOp = .next u) (hub : u.busy = false) :
    execDecFramein len n data s = .next ((u.setPhase .accumulating).finish (.code .ok)) := by
  unfold execDecFramein
  rw [publicOp_open _ hd hb, ifLive_open _ hl, hu, unlessHung_next_of_idle _ hub]

/-! ## DEC.FRAMEOUT -/

/-- Samples `SB[a + i .. a + i + m)` are a piece of any longer run of samples from `a` on. -/
theorem State.slice_drop_take (s : State) {a n i m : Nat} (h : i + m ≤ n) :
    ((s.slice a n).drop i).take m = s.slice (a + i) m := by
  apply List.ext_getElem
  · simp only [List.length_take, List.length_drop, State.slice_length]; omega
  · intro k _ _
    simp only [State.slice, List.getElem_take, List.getElem_drop, List.getElem_map, List.getElem_range, Nat.add_assoc]

/-- R105, by default: one record of everything accumulated. -/
theorem handedOver_chain_whole {s : State} (h : s.emitPerUnit = false) : (handedOver s).chain =
    [{ data := .pcm (s.slice 0 s.samples), datalen := s.datalen, samples := s.samples }] := by
  simp only [handedOver, h, pcmRecords, State.slice_length, Bool.false_eq_true, if_false]

/-- R105, with one record for every unit: record `j` holds unit `j`. -/
theorem handedOver_chain_perUnit {s : State} (h : s.emitPerUnit = true) : (handedOver s).chain =
    (List.range (s.samples / 160)).map fun j =>
      { data := .pcm (s.slice (160 * j) 160), datalen := 320, samples := 160 } := by
  simp only [handedOver, h, pcmRecords, if_true, State.slice_length, unitCount]
  refine List.map_congr_left fun j hj => ?_
  have hunit : 160 * j + 160 ≤ s.samples := by
    have hj' : j < s.samples / 160 := List.mem_range.1 hj
    omega
  rw [State.slice_drop_take s hunit, Nat.zero_add]

/-! ## The three statements -/

/-- Settles O18: DEC.CREATE is CREATE of the decode direction. -/
theorem decCreateEffect : Obligations.DecCreateEffect :=
  ⟨hostByte_of_fields (by decide) (by decide) fun _ => rfl, createEffect_of_exec fun _ => rfl⟩

/-- Settles O31: the loop's law, started at stride 0 on `floor(len / 31)` answers, gives blocks, counters, calls and
`W`; the return after it sets phase and result only. -/
theorem decFrameinAppendsBlocks : Obligations.DecFrameinAppendsBlocks := by
  refine ⟨fun args => decode_public .host args (by decide) (by decide), ?_⟩
  intro len nsamp data bs rest s hb hd hl hdata hbs he hc
  have hfit : Config.PSTRIDE * 0 + Config.PSTRIDE * bs.length ≤ data.length := by
    simp only [Config.PSTRIDE]; omega
  obtain ⟨u, hrun, keeps, hub, -, hsamples, hdatalen, hdecodes, hblocks, houtside, hcalls, hlast, hnone⟩ :=
    decodeStrides_answered bs 0 s.startOp rest hb hd hfit he (by rwa [hbs])
  simp only [hbs, Nat.zero_add] at hrun hsamples hdatalen houtside hcalls hlast
  refine ⟨_, execDecFramein_eq nsamp hb hd hl hrun hub, rfl, hsamples, hdatalen, hblocks, houtside, ?engine, rfl, keeps.chain,
    keeps.log, hlast, ?noStride, keeps.life, keeps.handle, keeps.obAt, ?context, keeps.draws⟩
  case engine =>
    rw [State.finish_engine, State.setPhase_engine, keeps.engine_eq, hdecodes, hcalls]
    rfl
  case noStride =>
    intro hlen i
    rw [hnone (by omega)]
    rfl
  case context => exact ⟨keeps.dir, keeps.emitPerUnit, keeps.inbox, keeps.resetLine, hub.trans hb.symm⟩

/-- Settles O35: DEC.FRAMEOUT leaves the state as it was but for the return, or `handedOver`, whose records are those
of R105 in either setting. -/
theorem decFrameoutHandsOver : Obligations.DecFrameoutHandsOver := by
  refine ⟨hostByte_of_fields (by decide) (by decide) fun _ => rfl, fun _ => rfl, ?_⟩
  intro s hb hd hl hc
  refine ⟨_, execDecFrameout_eq hb hd hl hc, ?_⟩
  by_cases h0 : s.samples = 0
  · simp [h0, State.result, SameOb, SameW, SameContext, SameSb]
  · simp only [if_neg h0]
    exact ⟨rfl, rfl, rfl, rfl, rfl, fun _ => rfl, fun _ => rfl, ⟨rfl, rfl, rfl, rfl, rfl⟩, rfl, rfl, rfl, rfl,
      handedOver_chain_whole, handedOver_chain_perUnit⟩

end Sys2Proof.Machine
end

section
/-!
PROOFS. The family of the statements about the whole machine, first part: for every operation what its next state is
(`Effect`), and what the two loops leave, whether they end or wait. The statements about every step rest on these.
-/

namespace Sys2Proof.Machine

/-! ## The loop of ENC.FRAMEOUT, whatever the engine does -/

/-- A transaction of one of the two loops: well formed, and no creation or destruction. -/
def CodingCall (c : EngineCall) : Prop := callFormed c ∧ isCreateCall c = false ∧ isDestroyCall c = false

theorem framesFor_append (as bs : List EncodeAnswer) : ∀ d : Nat,
    framesFor (as ++ bs) d = framesFor as d ++ framesFor bs (d + successCount as) := by
  induction as with
  | nil => intro d; rfl
  | cons a as ih =>
    intro d
    by_cases h : a.status = Config.ENC_OK
    · have hd : d + 1 + successCount as = d + successCount (a :: as) := by
        simp only [successCount, List.countP_cons, h, decide_true, if_true]; omega
      simp only [List.cons_append, framesFor, if_pos h, ih, hd]
    · have hd : successCount (a :: as) = successCount as := by simp [successCount, h]
      simp only [List.cons_append, framesFor, if_neg h, ih, hd]

theorem mismatchesFor_append (as bs : List EncodeAnswer) :
    mismatchesFor (as ++ bs) = mismatchesFor as ++ mismatchesFor bs := by
  simp only [mismatchesFor, List.filter_append, List.map_append]

theorem successCount_append (as bs : List EncodeAnswer) :
    successCount (as ++ bs) = successCount as + successCount bs := List.countP_append

/-- ENC.FRAMEOUT's loop over `n` units took the answers `as`, one for each unit unless it waits (R94, R145). -/
structure UnitsRun (n : Nat) (as : List EncodeAnswer) (s t : State) : Prop where
  keeps : UnitKeeps s t
  chain : t.chain = s.chain ++ framesFor as s.draws
  draws : t.draws = s.draws + successCount as
  log : t.log = s.log ++ mismatchesFor as
  ob : Memory.wf 32 s.ob = true → Memory.wf 32 t.ob = true
  calls : ∃ cs, t.engine.calls = s.engine.calls ++ cs ∧ (∀ c ∈ cs, CodingCall c) ∧ (t.busy = false → cs.length = n)
  answered : t.busy = false → as.length = n
  phase : t.phase = if t.busy then .frameReady else if n = 0 then s.phase else .accumulating

theorem UnitsRun.refl {s : State} (hb : s.busy = false) : UnitsRun 0 [] s s where
  keeps := UnitKeeps.refl s
  chain := by simp [framesFor]
  draws := rfl
  log := by simp [mismatchesFor]
  ob := id
  calls := ⟨[], by simp, by simp, fun _ => rfl⟩
  answered _ := rfl
  phase := by simp [hb]

theorem UnitsRun.trans {n m : Nat} {as bs : List EncodeAnswer} {s u t : State} (h : UnitsRun n as s u)
    (hub : u.busy = false) (k : UnitsRun m bs u t) : UnitsRun (n + m) (as ++ bs) s t where
  keeps := h.keeps.trans k.keeps
  chain := by rw [k.chain, h.chain, h.draws, framesFor_append, List.append_assoc]
  draws := by rw [k.draws, h.draws, successCount_append, Nat.add_assoc]
  log := by rw [k.log, h.log, mismatchesFor_append, List.append_assoc]
  ob hw := k.ob (h.ob hw)
  calls := by
    obtain ⟨cs, hcs, hform, hlen⟩ := h.calls
    obtain ⟨ds, hds, hform', hlen'⟩ := k.calls
    refine ⟨cs ++ ds, by rw [hds, hcs, List.append_assoc], ?_, fun hb => ?_⟩
    · intro c hc
      exact (List.mem_append.1 hc).elim (hform c) (hform' c)
    · rw [List.length_append, hlen hub, hlen' hb]
  answered hb := by rw [List.length_append, h.answered hub, k.answered hb]
  phase := by
    have hu : u.phase = if n = 0 then s.phase else .accumulating := by simpa [hub] using h.phase
    rw [k.phase, hu]
    by_cases hm : m = 0 <;> simp [hm]

/-- One unit: it waits, or takes one answer (R94, R129). -/
theorem encodeUnit_run {c : Nat} {s t : State} (hb : s.busy = false) (h : encodeUnit c s = .next t) :
    ∃ as, UnitsRun 1 as s t := by
  obtain ⟨keeps, hcalls, hob⟩ := encodeUnit_keeps h
  obtain ⟨-, ht⟩ := encodeUnit_eq_next h
  obtain ⟨q, hq⟩ := engineEncode_state (s.slice c Config.UNIT) (s.setPhase .frameReady)
  obtain ⟨-, -, -, hcase⟩ := encodeAnswered_spec (engineEncode (s.slice c Config.UNIT) (s.setPhase .frameReady)).1
    (engineEncode (s.slice c Config.UNIT) (s.setPhase .frameReady)).2
  rw [← ht, hq] at hcase
  have hcall : ∃ cs, t.engine.calls = s.engine.calls ++ cs ∧ (∀ c ∈ cs, CodingCall c) ∧
      (t.busy = false → cs.length = 1) :=
    ⟨_, hcalls, by simp [CodingCall, callFormed, isCreateCall, isDestroyCall], fun _ => rfl⟩
  rcases hcase with ⟨-, rfl⟩ | ⟨a, -, hbusy, -, hphase, hcase⟩
  · exact ⟨[], keeps, by simp [framesFor], rfl, by simp [mismatchesFor], hob, hcall, nofun, rfl⟩
  · have hbt : t.busy = false := hbusy.trans hb
    rcases hcase with ⟨hst, hlog, hdraws, hchain, -⟩ | ⟨hst, hlog, hdraws, hchain, -⟩
    · refine ⟨[a], keeps, ?_, ?_, ?_, hob, hcall, fun _ => rfl, by simp [hbt, hphase]⟩
      · simpa [framesFor, hst] using hchain
      · simpa [successCount, hst] using hdraws
      · simpa [mismatchesFor, hst] using hlog
    · refine ⟨[a], keeps, ?_, ?_, ?_, hob, hcall, fun _ => rfl, by simp [hbt, hphase]⟩
      · simpa [framesFor, hst] using hchain
      · simpa [successCount, hst] using hdraws
      · simpa [mismatchesFor, hst] using hlog

/-- The loop takes one answer after another, up to the first unit that waits (R94). -/
theorem encodeUnits_run : ∀ (n c : Nat) {s t : State}, s.busy = false → encodeUnits n c s = .next t →
    ∃ as, UnitsRun n as s t := by
  intro n
  induction n with
  | zero => intro c s t hb h; cases h; exact ⟨[], .refl hb⟩
  | succ n ih =>
    intro c s t hb h
    obtain ⟨u, hu, hrest⟩ := unlessHung_eq_next.1 h
    obtain ⟨as, hrun⟩ := encodeUnit_run hb hu
    rcases hrest with ⟨hub, rfl⟩ | ⟨hub, hrest⟩
    · refine ⟨as, { hrun with calls := ?_, answered := ?_, phase := ?_ }⟩
      · obtain ⟨cs, hcs, hform, -⟩ := hrun.calls
        exact ⟨cs, hcs, hform, by simp [hub]⟩
      · simp [hub]
      · simpa [hub] using hrun.phase
    · obtain ⟨bs, hrun'⟩ := ih _ hub hrest
      exact ⟨as ++ bs, Nat.add_comm 1 n ▸ hrun.trans hub hrun'⟩

/-! ## The loop of DEC.FRAMEIN, whatever the engine does -/

/-- A rebuilt storage frame is what a decode call must carry (R104(b), R104(c)). -/
theorem codingCall_decode (h : Option Handle) (q : Stride) (f : Int) : CodingCall (.decode h (unpackFrame q) f) :=
  ⟨⟨unpackFrame_header q, by rw [unpackFrame_last, lo4_joinNibbles]⟩, rfl, rfl⟩

/-- DEC.FRAMEIN's loop leaves `W` canonical and adds decode calls on rebuilt frames (R102). -/
structure StridesRun (s t : State) : Prop where
  keeps : StrideKeeps s t
  w : Memory.wf 32 s.w = true → Memory.wf 32 t.w = true
  calls : ∃ cs, t.engine.calls = s.engine.calls ++ cs ∧ ∀ c ∈ cs, CodingCall c
  phase : t = s ∨ t.phase = .frameReady ∨ t.phase = .accumulating

theorem StridesRun.refl (s : State) : StridesRun s s :=
  ⟨.refl s, id, ⟨[], by simp, by simp⟩, .inl rfl⟩

theorem StridesRun.trans {s u t : State} (h : StridesRun s u) (k : StridesRun u t) : StridesRun s t where
  keeps := h.keeps.trans k.keeps
  w hw := k.w (h.w hw)
  calls := by
    obtain ⟨cs, hcs, hform⟩ := h.calls
    obtain ⟨ds, hds, hform'⟩ := k.calls
    refine ⟨cs ++ ds, by rw [hds, hcs, List.append_assoc], ?_⟩
    intro c hc
    exact (List.mem_append.1 hc).elim (hform c) (hform' c)
  phase := k.phase.elim (fun e => e ▸ h.phase) .inr

theorem decodeStride_run {data : List Byte} {x : Nat} {s t : State} (h : decodeStride data x s = .next t) :
    StridesRun s t := by
  obtain ⟨q, -, keeps, hcalls, -, hw, hcase⟩ := decodeStride_eq_next h
  refine ⟨keeps, hw, ⟨_, hcalls, ?_⟩, .inr ?_⟩
  · simp [codingCall_decode]
  · rcases hcase with ⟨-, -, -, -, -, hp⟩ | ⟨-, -, -, -, -, -, -, hp⟩
    · exact .inl hp
    · exact .inr hp

theorem decodeStrides_run {data : List Byte} {m x : Nat} {s t : State} (h : decodeStrides data m x s = .next t) :
    StridesRun s t :=
  decodeStrides_induct (P := StridesRun s) (fun _ _ _ hu hp => hp.trans (decodeStride_run hu)) m x s t h (.refl s)

/-! ## Every operation -/

/-- CREATE of a direction, as an operation. -/
def createInstr : Dir → Instr
  | .enc => .encCreate
  | .dec => .decCreate

/-- DESTROY of a direction, as an operation. -/
def destroyInstr : Dir → Instr
  | .enc => .encDestroy
  | .dec => .decDestroy

theorem createInstr_cases (d : Dir) : createInstr d = .encCreate ∨ createInstr d = .decCreate := by
  cases d <;> simp [createInstr]

theorem destroyInstr_cases (d : Dir) : destroyInstr d = .encDestroy ∨ destroyInstr d = .decDestroy := by
  cases d <;> simp [destroyInstr]

theorem exec_createInstr (d : Dir) (s : State) : exec (createInstr d) s = create d s := by cases d <;> rfl

theorem exec_destroyInstr (d : Dir) (s : State) : exec (destroyInstr d) s = destroy d s := by cases d <;> rfl

/-- What ENC.FRAMEOUT leaves of the state `u` in which its loop over the `n` samples of the buffer ended (R94). -/
def drained (n : Nat) (u : State) : State :=
  (((u.setSb (Memory.run 0 (u.slice (Config.UNIT * unitCount n) (n - Config.UNIT * unitCount n)))).setCounts
    (n - Config.UNIT * unitCount n) u.datalen).nextEpoch).finish (.code .ok)

/-- ENC.FRAMEOUT: its loop takes answers; then it waits, or drains (R94, R145). -/
theorem execEncFrameout_run {s t : State} (h : execEncFrameout s = .next t) :
    s.dir = .enc ∧ s.busy = false ∧ s.life = .live ∧ ∃ as u, UnitsRun (unitCount s.samples) as s.startOp u ∧
      ((u.busy = true ∧ t = u) ∨ (u.busy = false ∧ s.samples ≤ Config.CAP ∧ t = drained s.samples u)) := by
  obtain ⟨hd, hb, hl, u, hu, hcase⟩ := execEncFrameout_eq_next h
  obtain ⟨as, hrun⟩ := encodeUnits_run _ _ (show s.startOp.busy = false from hb) hu
  exact ⟨hd, hb, hl, as, u, hrun, hcase⟩

/-- Everything an operation can do when it has a next state. -/
inductive Effect : Instr → State → State → Prop
  | appends {s : State} {e : Nat} {d : List Sample} (hc : e + d.length ≤ Config.CAP) :
      Effect (.accAppend e d) s ((((s.setSb (Memory.write s.sb e d)).dropAbove (e + d.length)).setCounts (e + d.length)
        (appendedDatalen s d.length)).finish (.count (e + d.length)))
  | compacts {s : State} {c r : Nat} (hc : c + r ≤ Config.CAP) :
      Effect (.accCompact c r) s
        (((s.setSb (Memory.run 0 (s.slice c r))).setCounts r s.datalen).nextEpoch).finishVoid
  | packs {s : State} {f p : Frame} {m : List Host.Cell} (hm : Memory.wf 32 s.ob = true → Memory.wf 32 m = true) :
      Effect (.rpkEnc f) s (((s.setOb m).takeDraw).finish (.frame p))
  | unpacks {s : State} {q : Stride} {p : Frame} {m : List Host.Cell}
      (hm : Memory.wf 32 s.w = true → Memory.wf 32 m = true) : Effect (.rpkDec q) s ((s.setW m).finish (.frame p))
  | creation {d : Dir} {s t : State} (h : create d s = .next t) : Effect (createInstr d) s t
  | destruction {d : Dir} {s t : State} (h : destroy d s = .next t) : Effect (destroyInstr d) s t
  | delivers {s : State} {len n : BitVec 16} {d : List Sample} (hd : s.dir = .enc) (hl : s.life = .live)
      (hn : n.toNat ≤ d.length) (hc : s.samples + n.toNat ≤ Config.CAP) :
      Effect (.encFramein len n d) s (((s.startOp.setSb (Memory.write s.sb s.samples (d.take n.toNat))).setCounts
        (s.samples + n.toNat) s.datalen).setPhase .accumulating |>.finish (.code .ok))
  | drainWaits {s u : State} {as : List EncodeAnswer} (hd : s.dir = .enc) (hl : s.life = .live)
      (hu : UnitsRun (unitCount s.samples) as s.startOp u) (hub : u.busy = true) : Effect .encFrameout s u
  | drains {s u : State} {as : List EncodeAnswer} (hd : s.dir = .enc) (hl : s.life = .live)
      (hu : UnitsRun (unitCount s.samples) as s.startOp u) (hub : u.busy = false) (hc : s.samples ≤ Config.CAP) :
      Effect .encFrameout s (drained s.samples u)
  | decodeWaits {s u : State} {len n : BitVec 16} {data : List Byte} (hd : s.dir = .dec) (hl : s.life = .live)
      (hu : decodeStrides data (strideCount len.toNat) 0 s.startOp = .next u) (hub : u.busy = true) :
      Effect (.decFramein len n data) s u
  | decodes {s u : State} {len n : BitVec 16} {data : List Byte} (hd : s.dir = .dec) (hl : s.life = .live)
      (hu : decodeStrides data (strideCount len.toNat) 0 s.startOp = .next u) (hub : u.busy = false) :
      Effect (.decFramein len n data) s ((u.setPhase .accumulating).finish (.code .ok))
  | handOverNothing {s : State} (hd : s.dir = .dec) (hl : s.life = .live) (h0 : s.samples = 0) :
      Effect .decFrameout s (s.startOp.finish (.code .ok))
  | handsOver {s : State} (hd : s.dir = .dec) (hl : s.life = .live) (hc : s.samples ≤ Config.CAP) :
      Effect .decFrameout s (handedOver s)

/-- Whatever has a next state had no operation running, and did one of these. -/
theorem exec_effect {i : Instr} {s t : State} (h : exec i s = .next t) : s.busy = false ∧ Effect i s t := by
  cases i with
  | accAppend e d =>
    obtain ⟨hb, hc, rfl⟩ := execAccAppend_eq_next h
    exact ⟨hb, .appends hc⟩
  | accCompact c r =>
    obtain ⟨hb, hc, rfl⟩ := execAccCompact_eq_next h
    exact ⟨hb, .compacts hc⟩
  | rpkEnc f =>
    obtain ⟨hb, m, p, rfl, hm⟩ := execRpkEnc_eq_next h
    exact ⟨hb, .packs hm⟩
  | rpkDec q =>
    obtain ⟨hb, m, p, rfl, hm⟩ := execRpkDec_eq_next h
    exact ⟨hb, .unpacks hm⟩
  | encCreate | decCreate =>
    obtain ⟨-, hb, -⟩ := create_eq_next h
    exact ⟨hb, .creation h⟩
  | encDestroy | decDestroy =>
    obtain ⟨-, hb, -⟩ := destroy_eq_next h
    exact ⟨hb, .destruction h⟩
  | encFramein len n d =>
    obtain ⟨hd, hb, hl, -, hn, hc, rfl⟩ := execEncFramein_eq_next h
    exact ⟨hb, .delivers hd hl hn hc⟩
  | encFrameout =>
    obtain ⟨hd, hb, hl, as, u, hrun, ⟨hub, rfl⟩ | ⟨hub, hc, rfl⟩⟩ := execEncFrameout_run h
    · exact ⟨hb, .drainWaits hd hl hrun hub⟩
    · exact ⟨hb, .drains hd hl hrun hub hc⟩
  | decFramein len n data =>
    obtain ⟨hd, hb, hl, u, hu, ⟨hub, rfl⟩ | ⟨hub, rfl⟩⟩ := execDecFramein_eq_next (n := n) h
    · exact ⟨hb, .decodeWaits hd hl hu hub⟩
    · exact ⟨hb, .decodes hd hl hu hub⟩
  | decFrameout =>
    obtain ⟨hd, hb, hl, ⟨h0, rfl⟩ | ⟨-, hc, rfl⟩⟩ := execDecFrameout_eq_next h
    · exact ⟨hb, .handOverNothing hd hl h0⟩
    · exact ⟨hb, .handsOver hd hl hc⟩

/-- What a step that has a next state did: a hardware reset, nothing, or the effect of the next command's operation. -/
theorem step_effect {s t : State} (h : step s = .next t) :
    (s.resetLine = true ∧ t = hardwareReset s) ∨ t = s ∨
      ∃ c rest i, s.inbox = c :: rest ∧ decode c = .ok i ∧ s.busy = false ∧ Effect i (s.setInbox rest) t := by
  obtain h | ⟨-, -, rfl⟩ | ⟨c, rest, i, -, hi, hd, h⟩ := step_eq_next h
  · exact .inl h
  · exact .inr (.inl rfl)
  · exact .inr (.inr ⟨c, rest, i, hi, hd, exec_effect h⟩)

end Sys2Proof.Machine
end

section
/-!
PROOFS. The family of the statements about the whole machine, second part: what every step keeps. The constants (R18),
the life cycle (R19, R22), the results (R58), the log (R122), the engine's transactions (R104, R114), and the four
invariants (R23, R33, R38, R97).
-/

namespace Sys2Proof.Machine

/-! ## What every operation leaves alone -/

/-- R18: an operation leaves the constants of the context, the reset line and what is still pending alone. -/
theorem Effect.context {i : Instr} {s t : State} (h : Effect i s t) :
    t.dir = s.dir ∧ t.emitPerUnit = s.emitPerUnit ∧ t.inbox = s.inbox ∧ t.resetLine = s.resetLine := by
  cases h with
  | appends | compacts | packs | unpacks | delivers => simp
  | creation h =>
    obtain ⟨-, -, -, e, -, rfl | rfl | ⟨id, rfl⟩⟩ := create_eq_next h <;> exact ⟨rfl, rfl, rfl, rfl⟩
  | destruction h =>
    obtain ⟨-, -, ⟨-, rfl⟩ | ⟨hdl, e, -, -, rfl | rfl⟩⟩ := destroy_eq_next h <;> exact ⟨rfl, rfl, rfl, rfl⟩
  | handOverNothing | handsOver => exact ⟨rfl, rfl, rfl, rfl⟩
  | drainWaits _ _ hu _ | drains _ _ hu _ _ =>
    exact ⟨hu.keeps.dir, hu.keeps.emitPerUnit, hu.keeps.inbox, hu.keeps.resetLine⟩
  | decodeWaits _ _ hu _ | decodes _ _ hu _ =>
    have keeps := decodeStrides_keeps hu
    exact ⟨keeps.dir, keeps.emitPerUnit, keeps.inbox, keeps.resetLine⟩

/-! ## Life and engine -/

/-- What every operation but CREATE and DESTROY keeps of the life cycle: life and handle, and the engine is neither
created nor destroyed. -/
structure KeepsEngine (s t : State) : Prop where
  life : t.life = s.life
  handle : t.handle = s.handle
  calls : ∃ cs, t.engine.calls = s.engine.calls ++ cs ∧ ∀ c ∈ cs, CodingCall c

theorem KeepsEngine.of_engine_eq {s t : State} (hl : t.life = s.life) (hh : t.handle = s.handle)
    (he : t.engine = s.engine) : KeepsEngine s t :=
  ⟨hl, hh, [], by simp [he], by simp⟩

/-- R19, R22, R97: an operation keeps life, handle and engine, or it is a CREATE or a DESTROY. -/
theorem Effect.lifeCycle {i : Instr} {s t : State} (h : Effect i s t) :
    KeepsEngine s t ∨ (∃ d, i = createInstr d ∧ create d s = .next t) ∨
      ∃ d, i = destroyInstr d ∧ destroy d s = .next t := by
  cases h with
  | appends | compacts | packs | unpacks | delivers =>
    exact .inl (.of_engine_eq (by simp) (by simp) (by simp))
  | creation h => exact .inr (.inl ⟨_, rfl, h⟩)
  | destruction h => exact .inr (.inr ⟨_, rfl, h⟩)
  | handOverNothing | handsOver => exact .inl (.of_engine_eq rfl rfl rfl)
  | drainWaits _ _ hu _ | drains _ _ hu _ _ =>
    obtain ⟨cs, hcs, hform, -⟩ := hu.calls
    exact .inl ⟨hu.keeps.life, hu.keeps.handle, cs, hcs, hform⟩
  | decodeWaits _ _ hu _ | decodes _ _ hu _ =>
    have hrun := decodeStrides_run hu
    exact .inl ⟨hrun.keeps.life, hrun.keeps.handle, hrun.calls⟩

theorem State.createCount_of_calls {s t : State} {cs : List EngineCall} (h : t.engine.calls = s.engine.calls ++ cs) :
    t.createCount = s.createCount + cs.countP isCreateCall := by
  simp only [State.createCount, h, List.countP_append]

theorem State.destroyCount_of_calls {s t : State} {cs : List EngineCall} (h : t.engine.calls = s.engine.calls ++ cs) :
    t.destroyCount = s.destroyCount + cs.countP isDestroyCall := by
  simp only [State.destroyCount, h, List.countP_append]

theorem KeepsEngine.createCount {s t : State} (h : KeepsEngine s t) : t.createCount = s.createCount := by
  obtain ⟨cs, hcs, hform⟩ := h.calls
  have hnone : cs.countP isCreateCall = 0 := List.countP_eq_zero.2 fun c hc => by
    obtain ⟨-, hcreate, -⟩ := hform c hc
    simp [hcreate]
  rw [State.createCount_of_calls hcs, hnone, Nat.add_zero]

theorem KeepsEngine.destroyCount {s t : State} (h : KeepsEngine s t) : t.destroyCount = s.destroyCount := by
  obtain ⟨cs, hcs, hform⟩ := h.calls
  have hnone : cs.countP isDestroyCall = 0 := List.countP_eq_zero.2 fun c hc => by
    obtain ⟨-, -, hdestroy⟩ := hform c hc
    simp [hdestroy]
  rw [State.destroyCount_of_calls hcs, hnone, Nat.add_zero]

/-- R97: an operation that neither creates nor destroys keeps the engine's lifetime. -/
theorem KeepsEngine.oneLifetime {s t : State} (h : KeepsEngine s t) (hb : s.busy = false) (hs : s.OneLifetime) :
    t.OneLifetime where
  oneCreate := h.createCount ▸ hs.oneCreate
  oneDestroy := h.destroyCount ▸ hs.oneDestroy
  notYetCreated hl _ := h.createCount ▸ hs.notYetCreated (h.life ▸ hl) hb
  notYetDestroyed hl := h.destroyCount ▸ hs.notYetDestroyed (h.life ▸ hl)
  heldUndestroyed hh _ := h.destroyCount ▸ hs.heldUndestroyed (h.handle ▸ hh) hb
  handleLive := by rw [h.handle, h.life]; exact hs.handleLive

/-- R22: the one creation of a context is its first. -/
theorem create_oneLifetime {d : Dir} {s t : State} (h : create d s = .next t) (hs : s.OneLifetime) :
    t.OneLifetime := by
  obtain ⟨-, hb, hl, e, hc, ht⟩ := create_eq_next h
  have hcalls : t.engine.calls = s.engine.calls ++ [createCall d] := by
    obtain rfl | rfl | ⟨id, rfl⟩ := ht <;> exact hc
  have hcreate : t.createCount = 1 := by
    rw [State.createCount_of_calls hcalls, hs.notYetCreated hl hb]
    cases d <;> rfl
  have hdestroy : t.destroyCount = 0 := by
    rw [State.destroyCount_of_calls hcalls, hs.notYetDestroyed hl]
    cases d <;> rfl
  have hunheld : ¬ s.handle.isSome = true := by simp [hs.handleLive, hl]
  refine ⟨hcreate.le, by omega, ?_, fun _ => hdestroy, fun _ _ => hdestroy, ?_⟩
  · obtain rfl | rfl | ⟨id, rfl⟩ := ht
    · nofun
    · nofun
    · nofun
  · obtain rfl | rfl | ⟨id, rfl⟩ := ht
    · exact hs.handleLive
    · simp [createdFailed]
    · simp [createdLive]

/-- R97: a handle is destroyed once, and none is held afterwards. -/
theorem destroy_oneLifetime {d : Dir} {s t : State} (h : destroy d s = .next t) (hs : s.OneLifetime) :
    t.OneLifetime := by
  obtain ⟨-, hb, ⟨hh, rfl⟩ | ⟨hdl, e, hh, hc, ht⟩⟩ := destroy_eq_next h
  · exact ⟨hs.oneCreate, hs.oneDestroy, nofun, nofun, nofun, by simp [destroyedState]⟩
  · have hcalls : t.engine.calls = s.engine.calls ++ [destroyCall d hdl] := by
      obtain rfl | rfl := ht <;> exact hc
    have hcreate : t.createCount = s.createCount := by
      rw [State.createCount_of_calls hcalls]
      cases d <;> rfl
    have hdestroy : t.destroyCount = 1 := by
      rw [State.destroyCount_of_calls hcalls, hs.heldUndestroyed (by simp [hh]) hb]
      cases d <;> rfl
    have hlive : s.life = .live := hs.handleLive.1 (by simp [hh])
    refine ⟨hcreate ▸ hs.oneCreate, hdestroy.le, ?_, ?_, ?_, ?_⟩
    · obtain rfl | rfl := ht <;> nofun
    · obtain rfl | rfl := ht
      · simp [hungState, hlive]
      · nofun
    · obtain rfl | rfl := ht <;> nofun
    · obtain rfl | rfl := ht
      · exact hs.handleLive
      · simp [destroyedState]

theorem Effect.oneLifetime {i : Instr} {s t : State} (h : Effect i s t) (hb : s.busy = false) (hs : s.OneLifetime) :
    t.OneLifetime := by
  obtain hk | ⟨d, -, hc⟩ | ⟨d, -, hd⟩ := h.lifeCycle
  · exact hk.oneLifetime hb hs
  · exact create_oneLifetime hc hs
  · exact destroy_oneLifetime hd hs

/-- Settles O44: only CREATE and DESTROY touch the engine's lifetime, and each is looked at by itself. -/
theorem oneEngineLifetimeKept : Obligations.OneEngineLifetimeKept := by
  intro s t hr hs h
  obtain ⟨hr', -⟩ | rfl | ⟨c, rest, i, -, -, hb, heff⟩ := step_effect h
  · rw [hr] at hr'
    cases hr'
  · exact hs
  · exact heff.oneLifetime hb
      ⟨hs.oneCreate, hs.oneDestroy, hs.notYetCreated, hs.notYetDestroyed, hs.heldUndestroyed, hs.handleLive⟩

/-- Settles O40: CREATE starts in Uncreated and ends in Live or Failed unless it waits; DESTROY ends in Destroyed. -/
theorem lifeTransitions : Obligations.LifeTransitions := by
  intro i s t h hne
  obtain ⟨-, heff⟩ := exec_effect h
  obtain hk | ⟨d, rfl, hc⟩ | ⟨d, rfl, hd⟩ := heff.lifeCycle
  · exact absurd hk.life hne
  · obtain ⟨-, -, hl, e, -, ht⟩ := create_eq_next hc
    obtain rfl | rfl | ⟨id, rfl⟩ := ht
    · exact absurd rfl hne
    · exact .inl ⟨hl, .inr rfl, createInstr_cases d⟩
    · exact .inl ⟨hl, .inl rfl, createInstr_cases d⟩
  · have ht : t.life = s.life ∨ t.life = .destroyed := by
      obtain ⟨-, -, ⟨-, rfl⟩ | ⟨_, e, -, -, rfl | rfl⟩⟩ := destroy_eq_next hd
      · exact .inr rfl
      · exact .inl rfl
      · exact .inr rfl
    have hdead : t.life = .destroyed := ht.resolve_left hne
    exact .inr ⟨fun hs => hne (hdead.trans hs.symm), hdead, destroyInstr_cases d⟩

/-- Settles O39: no operation writes the two constants, and a hardware reset keeps them. -/
theorem directionIsConstant : Obligations.DirectionIsConstant := by
  intro s t h
  obtain ⟨-, rfl⟩ | rfl | ⟨c, rest, i, -, -, -, heff⟩ := step_effect h
  · exact ⟨rfl, rfl⟩
  · exact ⟨rfl, rfl⟩
  · obtain ⟨hdir, hemit, -⟩ := heff.context
    exact ⟨hdir, hemit⟩

/-! ## Transactions, log and results -/

/-- R104, R114: every transaction an operation adds is well formed. -/
theorem Effect.calls {i : Instr} {s t : State} (h : Effect i s t) :
    ∃ cs, t.engine.calls = s.engine.calls ++ cs ∧ ∀ c ∈ cs, callFormed c := by
  obtain ⟨-, -, cs, hcs, hform⟩ | ⟨d, -, hc⟩ | ⟨d, -, hd⟩ := h.lifeCycle
  · exact ⟨cs, hcs, fun c hc => (hform c hc).1⟩
  · obtain ⟨-, -, -, e, hcalls, ht⟩ := create_eq_next hc
    refine ⟨[createCall d], ?_, by cases d <;> simp [createCall, callFormed]⟩
    obtain rfl | rfl | ⟨id, rfl⟩ := ht <;> exact hcalls
  · obtain ⟨-, -, ⟨-, rfl⟩ | ⟨hdl, e, -, hcalls, ht⟩⟩ := destroy_eq_next hd
    · exact ⟨[], by simp [destroyedState], by simp⟩
    · refine ⟨[destroyCall d hdl], ?_, by cases d <;> simp [destroyCall, callFormed]⟩
      obtain rfl | rfl := ht <;> exact hcalls

/-- Settles O43: a reset and a wait add no transaction, and an operation well-formed ones only. -/
theorem engineCallsWellFormed : Obligations.EngineCallsWellFormed := by
  intro s t h
  obtain ⟨-, rfl⟩ | rfl | ⟨c, rest, i, -, -, -, heff⟩ := step_effect h
  · exact ⟨[], by simp [hardwareReset], by simp⟩
  · exact ⟨[], by simp, by simp⟩
  · exact heff.calls

/-- R122, R129: an operation logs the mismatches among the answers an ENC.FRAMEOUT took, and nothing else. -/
theorem Effect.log {i : Instr} {s t : State} (h : Effect i s t) :
    t.log = s.log ∨ i = .encFrameout ∧ ∃ as, t.log = s.log ++ mismatchesFor as := by
  cases h with
  | appends | compacts | packs | unpacks | delivers => simp
  | creation h => obtain ⟨-, -, -, e, -, rfl | rfl | ⟨id, rfl⟩⟩ := create_eq_next h <;> exact .inl rfl
  | destruction h => obtain ⟨-, -, ⟨-, rfl⟩ | ⟨hdl, e, -, -, rfl | rfl⟩⟩ := destroy_eq_next h <;> exact .inl rfl
  | handOverNothing | handsOver => exact .inl rfl
  | drainWaits _ _ hu _ | drains _ _ hu _ _ => exact .inr ⟨rfl, _, hu.log⟩
  | decodeWaits _ _ hu _ | decodes _ _ hu _ => exact .inl (decodeStrides_keeps hu).log

/-- R129: an event stands for a status other than 32. -/
theorem status_of_mem_mismatchesFor {as : List EncodeAnswer} {e : LogEvent} (h : e ∈ mismatchesFor as) :
    ∃ status : Int, e = .encodeStatusMismatch status ∧ status ≠ 32 := by
  obtain ⟨a, ha, rfl⟩ := List.mem_map.1 h
  exact ⟨a.status, rfl, by simpa using (List.mem_filter.1 ha).2⟩

/-- Settles O42: the events are the mismatches among the answers of an ENC.FRAMEOUT. -/
theorem onlyEncFrameoutLogs : Obligations.OnlyEncFrameoutLogs := by
  intro i s t h
  obtain ⟨-, heff⟩ := exec_effect h
  obtain hlog | ⟨hi, as, hlog⟩ := heff.log
  · exact ⟨[], by simp [hlog], fun _ => rfl, by simp⟩
  · exact ⟨mismatchesFor as, hlog, fun hne => absurd hi hne, fun e => status_of_mem_mismatchesFor⟩

/-- R58: a public operation that does not wait returns OK, or it is a CREATE that returns FAIL. -/
theorem Effect.result {i : Instr} {s t : State} (h : Effect i s t) (hi : isPublic i = true) (hb : t.busy = false) :
    t.result = some .ok ∨ t.result = some .fail ∧ (i = .encCreate ∨ i = .decCreate) ∧ t.life = .failed := by
  cases h with
  | appends | compacts | packs | unpacks => cases hi
  | @creation d _ _ h =>
    obtain ⟨-, -, -, e, -, rfl | rfl | ⟨id, rfl⟩⟩ := create_eq_next h
    · cases hb
    · exact .inr ⟨rfl, createInstr_cases d, rfl⟩
    · exact .inl rfl
  | destruction h =>
    obtain ⟨-, -, ⟨-, rfl⟩ | ⟨hdl, e, -, -, rfl | rfl⟩⟩ := destroy_eq_next h
    · exact .inl rfl
    · cases hb
    · exact .inl rfl
  | drainWaits _ _ _ hub | decodeWaits _ _ _ hub => rw [hub] at hb; cases hb
  | delivers | drains | decodes | handOverNothing | handsOver => exact .inl rfl

/-- Settles O41: the codes are the table's; the result is read off each operation's effect. -/
theorem publicResultCodes : Obligations.PublicResultCodes := by
  refine ⟨rfl, rfl, fun i s t hi h hb => ?_⟩
  obtain ⟨-, heff⟩ := exec_effect h
  exact heff.result hi hb

end Sys2Proof.Machine
end

section
/-!
PROOFS. The family of the statements about the whole machine, third part: the invariants of the buffers, that is what
every step keeps of `SB` beside its counter (R23, R33, R38), of `OB` and `W`, and of an operation boundary.
-/

namespace Sys2Proof.Machine

/-! ## `SB` beside its counter -/

/-- A property of `SB` and `samples` that the driver's own use of the buffer keeps: it appends at the counter, and it
compacts to the front, which with nothing left is also what discarding the buffer leaves. -/
structure BufferRule (P : Memory Sample → Nat → Prop) : Prop where
  retained : ∀ vs, vs.length ≤ Config.CAP → P (Memory.run 0 vs) vs.length
  appended : ∀ m n vs, n + vs.length ≤ Config.CAP → P m n → P (Memory.write m n vs) (n + vs.length)

variable {P : Memory Sample → Nat → Prop}

theorem BufferRule.empty (hP : BufferRule P) : P [] 0 := hP.retained [] (Nat.zero_le _)

/-- What is moved to the front is all that is left. -/
theorem BufferRule.slice (hP : BufferRule P) (s : State) (c : Nat) {r : Nat} (h : r ≤ Config.CAP) :
    P (Memory.run 0 (s.slice c r)) r := by
  simpa using hP.retained (s.slice c r) (by simpa using h)

/-- A block appended at the counter (R102). -/
theorem BufferRule.block (hP : BufferRule P) {m : Memory Sample} {n : Nat} (b : Block)
    (h : n + Config.UNIT ≤ Config.CAP) (hs : P m n) : P (Memory.write m n b.toList) (n + Config.UNIT) := by
  simpa using hP.appended m n b.toList (by simpa using h) hs

theorem decodeStrides_buffer (hP : BufferRule P) {data : List Byte} {m x : Nat} {s t : State}
    (h : decodeStrides data m x s = .next t) (hs : P s.sb s.samples) : P t.sb t.samples := by
  refine decodeStrides_induct (P := fun s => P s.sb s.samples) (fun x s t hu hs => ?_) m x s t h hs
  obtain ⟨q, -, -, -, -, -, ⟨-, -, hsb, hn, -⟩ | ⟨b, -, -, hc, hsb, hn, -⟩⟩ := decodeStride_eq_next hu
  · rw [hsb, hn]; exact hs
  · rw [hsb, hn]; exact hP.block b hc hs

/-- Every operation keeps such a property; an ACC.APPEND elsewhere than at the counter has to be looked at by itself. -/
theorem Effect.buffer (hP : BufferRule P) {i : Instr} {s t : State} (h : Effect i s t)
    (happend : ∀ e d, i = .accAppend e d → e + d.length ≤ Config.CAP → P s.sb s.samples →
      P ((s.setSb (Memory.write s.sb e d)).dropAbove (e + d.length)).sb (e + d.length))
    (hs : P s.sb s.samples) : P t.sb t.samples := by
  cases h with
  | appends hc => exact happend _ _ rfl hc hs
  | compacts hc => exact hP.slice s _ (by omega)
  | packs | unpacks | handOverNothing => exact hs
  | creation h =>
    obtain ⟨-, -, -, e, -, rfl | rfl | ⟨id, rfl⟩⟩ := create_eq_next h
    · exact hs
    · exact hP.empty
    · exact hP.empty
  | destruction h =>
    obtain ⟨-, -, ⟨-, rfl⟩ | ⟨hdl, e, -, -, rfl | rfl⟩⟩ := destroy_eq_next h
    · exact hP.empty
    · exact hs
    · exact hP.empty
  | @delivers s len n d _ _ hn hc =>
    have hlen : (d.take n.toNat).length = n.toNat := by simp [hn]
    simpa [hlen] using hP.appended s.sb s.samples (d.take n.toNat) (by rwa [hlen]) hs
  | drainWaits _ _ hu _ => rw [hu.keeps.sb, hu.keeps.samples]; exact hs
  | drains _ _ _ _ hc => exact hP.slice _ _ (by omega)
  | decodeWaits _ _ hu _ | decodes _ _ hu _ => exact (decodeStrides_buffer hP hu hs :)
  | handsOver => exact hP.empty

/-! ## Canonical buffers -/

theorem bufferRule_canonical : BufferRule fun m n => Memory.wf Config.CAP m = true ∧ n ≤ Config.CAP where
  retained vs h := ⟨Memory.wfFrom_run vs (by simpa using h), h⟩
  appended _ _ _ h hs := ⟨Memory.wf_write hs.1 h, h⟩

/-- Every operation keeps the two staging buffers canonical (R38). -/
theorem Effect.staging {i : Instr} {s t : State} (h : Effect i s t) (ho : Memory.wf 32 s.ob = true)
    (hw : Memory.wf 32 s.w = true) : Memory.wf 32 t.ob = true ∧ Memory.wf 32 t.w = true := by
  cases h with
  | appends => simp [ho, hw]
  | compacts | delivers | handOverNothing | handsOver => exact ⟨ho, hw⟩
  | packs hm => exact ⟨hm ho, hw⟩
  | unpacks hm => exact ⟨ho, hm hw⟩
  | creation h =>
    obtain ⟨-, -, -, e, -, rfl | rfl | ⟨id, rfl⟩⟩ := create_eq_next h
    · exact ⟨ho, hw⟩
    · exact ⟨rfl, rfl⟩
    · exact ⟨rfl, rfl⟩
  | destruction h =>
    obtain ⟨-, -, ⟨-, rfl⟩ | ⟨hdl, e, -, -, rfl | rfl⟩⟩ := destroy_eq_next h
    · exact ⟨rfl, rfl⟩
    · exact ⟨ho, hw⟩
    · exact ⟨rfl, rfl⟩
  | drainWaits _ _ hu _ | drains _ _ hu _ _ => exact ⟨hu.ob ho, hu.keeps.w ▸ hw⟩
  | decodeWaits _ _ hu _ | decodes _ _ hu _ =>
    have hrun := decodeStrides_run hu
    exact ⟨hrun.keeps.ob ▸ ho, hrun.w hw⟩

/-- Settles O45: `SB` by the buffer rule, `OB` and `W` by what the repackers and the loops write. -/
theorem canonicalBuffersKept : Obligations.CanonicalBuffersKept := by
  intro s t hs h
  obtain ⟨-, rfl⟩ | rfl | ⟨c, rest, i, -, -, -, heff⟩ := step_effect h
  · exact ⟨rfl, rfl, rfl, Nat.zero_le _⟩
  · exact hs
  · obtain ⟨hsb, hob, hw, hn⟩ := hs
    obtain ⟨hob', hw'⟩ := heff.staging hob hw
    obtain ⟨hsb', hn'⟩ := heff.buffer bufferRule_canonical
      (fun e d _ hc hs => ⟨State.dropAbove_wf (Memory.wf_write hs.1 hc) hc, hc⟩) ⟨hsb, hn⟩
    exact ⟨hsb', hob', hw', hn'⟩

/-! ## Nothing known above the counter -/

theorem bufferRule_knownBelow : BufferRule fun m n => ∀ c ∈ m, c.1 < n where
  retained vs _ c hc := by simpa using (Memory.mem_run hc).2
  appended m n vs _ hs c hc := by
    obtain hm | ⟨-, hlt⟩ := Memory.mem_write hc
    · exact (hs c hm).trans_le (Nat.le_add_right _ _)
    · exact hlt

/-- Settles O46: an append that lowers the count drops what stands above it; every other use of `SB` is the driver's. -/
theorem nothingKnownAboveCount : Obligations.NothingKnownAboveCount := by
  intro s t hs h
  obtain ⟨-, rfl⟩ | rfl | ⟨c, rest, i, -, -, -, heff⟩ := step_effect h
  · exact fun c hc => absurd hc List.not_mem_nil
  · exact hs
  · refine heff.buffer bufferRule_knownBelow (fun e d _ _ hs => State.dropAbove_below fun c hc => ?_) hs
    obtain hm | ⟨-, hlt⟩ := Memory.mem_write hc
    · exact (hs c hm).trans_le (le_max_right _ _)
    · exact hlt.trans_le (le_max_left _ _)

/-! ## The operation boundary -/

theorem bufferRule_valid : BufferRule fun m n => n ≤ Config.CAP ∧ m.map Prod.fst = List.range n where
  retained vs h := ⟨h, by rw [Memory.keys_run, List.range_eq_range']⟩
  appended _ _ vs h hs := ⟨h, Memory.keys_write_end hs.2 vs⟩

/-- R33(d): in a decode context whole units are accumulated, two bytes a sample. -/
def State.WholeUnits (s : State) : Prop := s.samples % Config.UNIT = 0 ∧ s.datalen = 2 * s.samples

theorem decodeStrides_wholeUnits {data : List Byte} {m x : Nat} {s t : State}
    (h : decodeStrides data m x s = .next t) (hd : s.dir = .dec) (hs : s.WholeUnits) : t.WholeUnits := by
  refine (decodeStrides_induct (P := fun s => s.dir = .dec ∧ s.WholeUnits) (fun x s t hu hs => ?_) m x s t h
    ⟨hd, hs⟩).2
  obtain ⟨hd, hunits, hlen⟩ := hs
  obtain ⟨q, -, keeps, -, -, -, ⟨-, -, -, hn, hl, -⟩ | ⟨b, -, -, -, -, hn, hl, -⟩⟩ := decodeStride_eq_next hu
  · exact ⟨keeps.dir.trans hd, by rw [hn, hunits], by rw [hl, hn, hlen]⟩
  · refine ⟨keeps.dir.trans hd, by rw [hn, Nat.add_mod_right, hunits], ?_⟩
    rw [hl, hn]
    simp only [appendedDatalen, hd, hlen]
    omega

/-- R33(d): every public operation keeps whole units in a decode context. -/
theorem Effect.wholeUnits {i : Instr} {s t : State} (h : Effect i s t) (hi : isPublic i = true) (hd : s.dir = .dec)
    (hs : s.WholeUnits) : t.WholeUnits := by
  cases h with
  | appends | compacts | packs | unpacks => cases hi
  | creation h =>
    obtain ⟨-, -, -, e, -, rfl | rfl | ⟨id, rfl⟩⟩ := create_eq_next h
    · exact hs
    · exact ⟨rfl, rfl⟩
    · exact ⟨rfl, rfl⟩
  | destruction h =>
    obtain ⟨-, -, ⟨-, rfl⟩ | ⟨hdl, e, -, -, rfl | rfl⟩⟩ := destroy_eq_next h
    · exact ⟨rfl, rfl⟩
    · exact hs
    · exact ⟨rfl, rfl⟩
  | delivers henc | drainWaits henc | drains henc => rw [hd] at henc; cases henc
  | decodeWaits _ _ hu _ | decodes _ _ hu _ => exact (decodeStrides_wholeUnits hu hd hs :)
  | handOverNothing => exact hs
  | handsOver => exact ⟨rfl, rfl⟩

/-- R22, R33(e): every operation keeps that a handle, of the context's own kind, is held exactly in Live. -/
theorem Effect.handle {i : Instr} {s t : State} (h : Effect i s t) (hlive : s.handle.isSome = true ↔ s.life = .live)
    (hkind : ∀ hdl, s.handle = some hdl → hdl.kind = s.dir) :
    (t.handle.isSome = true ↔ t.life = .live) ∧ ∀ hdl, t.handle = some hdl → hdl.kind = s.dir := by
  obtain hk | ⟨d, -, hc⟩ | ⟨d, -, hd⟩ := h.lifeCycle
  · rw [hk.handle, hk.life]
    exact ⟨hlive, hkind⟩
  · obtain ⟨hd, -, -, e, -, rfl | rfl | ⟨id, rfl⟩⟩ := create_eq_next hc
    · exact ⟨hlive, hkind⟩
    · exact ⟨by simp [createdFailed], nofun⟩
    · refine ⟨by simp [createdLive], fun hdl he => ?_⟩
      cases he
      exact hd.symm
  · obtain ⟨-, -, ⟨-, rfl⟩ | ⟨hdl, e, -, -, rfl | rfl⟩⟩ := destroy_eq_next hd
    · exact ⟨by simp [destroyedState], nofun⟩
    · exact ⟨hlive, hkind⟩
    · exact ⟨by simp [destroyedState], nofun⟩

/-- R20: where a public operation can leave `phase`, and that it is not Idle with samples it has added. -/
theorem Effect.phase {i : Instr} {s t : State} (h : Effect i s t) (hi : isPublic i = true) :
    (t.phase = s.phase ∧ (t.samples = s.samples ∨ t.samples = 0)) ∨ (t.phase = .idle ∧ t.samples = 0) ∨
      t.phase = .accumulating ∨ (t.phase = .frameReady ∧ t.busy = true) := by
  cases h with
  | appends | compacts | packs | unpacks => cases hi
  | creation h =>
    obtain ⟨-, -, -, e, -, rfl | rfl | ⟨id, rfl⟩⟩ := create_eq_next h
    · exact .inl ⟨rfl, .inl rfl⟩
    · exact .inr (.inl ⟨rfl, rfl⟩)
    · exact .inr (.inl ⟨rfl, rfl⟩)
  | destruction h =>
    obtain ⟨-, -, ⟨-, rfl⟩ | ⟨hdl, e, -, -, rfl | rfl⟩⟩ := destroy_eq_next h
    · exact .inl ⟨rfl, .inr rfl⟩
    · exact .inl ⟨rfl, .inl rfl⟩
    · exact .inl ⟨rfl, .inr rfl⟩
  | drainWaits _ _ hu hub => exact .inr (.inr (.inr ⟨by simp [hu.phase, hub], hub⟩))
  | @drains s u _ _ _ hu hub _ =>
    have hphase : u.phase = if unitCount s.samples = 0 then s.phase else .accumulating := by
      simpa [hub] using hu.phase
    by_cases h0 : unitCount s.samples = 0
    · exact .inl ⟨hphase.trans (if_pos h0), .inl (by simp [drained, h0])⟩
    · exact .inr (.inr (.inl (hphase.trans (if_neg h0))))
  | decodeWaits _ _ hu hub =>
    obtain rfl | hp | hp := (decodeStrides_run hu).phase
    · exact .inl ⟨rfl, .inl rfl⟩
    · exact .inr (.inr (.inr ⟨hp, hub⟩))
    · exact .inr (.inr (.inl hp))
  | delivers | decodes | handsOver => exact .inr (.inr (.inl rfl))
  | handOverNothing => exact .inl ⟨rfl, .inl rfl⟩

/-- R34: what is not Live after an operation holds no samples, if that held before. -/
theorem Effect.deadEmpty {i : Instr} {s t : State} (h : Effect i s t) (hi : isPublic i = true)
    (hs : s.life ≠ .live → s.samples = 0) (ht : t.life ≠ .live) : t.samples = 0 := by
  cases h with
  | appends | compacts | packs | unpacks => cases hi
  | creation h =>
    obtain ⟨-, -, -, e, -, rfl | rfl | ⟨id, rfl⟩⟩ := create_eq_next h
    · exact hs ht
    · rfl
    · rfl
  | destruction h =>
    obtain ⟨-, -, ⟨-, rfl⟩ | ⟨hdl, e, -, -, rfl | rfl⟩⟩ := destroy_eq_next h
    · rfl
    · exact hs ht
    · rfl
  | delivers _ hl | handOverNothing _ hl | handsOver _ hl => exact absurd hl ht
  | drainWaits _ hl hu _ | drains _ hl hu _ _ => exact absurd (hu.keeps.life.trans hl) ht
  | decodeWaits _ hl hu _ | decodes _ hl hu _ => exact absurd ((decodeStrides_keeps hu).life.trans hl) ht

/-- R33: a public operation of a context whose pending commands are all the host's keeps the boundary invariants. -/
theorem Effect.boundary {i : Instr} {s t : State} (h : Effect i s t) (hb : s.busy = false) (hi : isPublic i = true)
    (hs : s.Boundary) : t.Boundary := by
  obtain ⟨hdir, -, hinbox, -⟩ := h.context
  obtain ⟨hcap, hvalid⟩ := h.buffer bufferRule_valid (fun e d he => by subst he; cases hi) ⟨hs.capacity, hs.valid⟩
  obtain ⟨hlive, hkind⟩ := h.handle hs.handleLive hs.handleKind
  have hphase := h.phase hi
  refine ⟨hinbox ▸ hs.hostOnly, hcap, hvalid, ?units, hlive, hdir ▸ hkind, ?rest, ?idle, h.deadEmpty hi hs.deadEmpty⟩
  case units =>
    intro hd
    rw [hdir] at hd
    exact h.wholeUnits hi hd (hs.wholeUnits hd)
  case rest =>
    intro hbt
    obtain ⟨hp, -⟩ | ⟨hp, -⟩ | hp | ⟨-, hp⟩ := hphase
    · exact hp ▸ hs.phaseRest hb
    · exact .inl hp
    · exact .inr hp
    · rw [hbt] at hp; cases hp
  case idle =>
    intro hidle
    obtain ⟨hp, hn | hn⟩ | ⟨-, hn⟩ | hp | ⟨hp, -⟩ := hphase
    · rw [hn]; exact hs.idleEmpty (hp ▸ hidle)
    · exact hn
    · exact hn
    · rw [hidle] at hp; cases hp
    · rw [hidle] at hp; cases hp

/-- Taking a command from the inbox changes nothing the boundary invariants speak of. -/
theorem State.Boundary.setInbox {s : State} (h : s.Boundary) {c : Command} {rest : List Command}
    (hi : s.inbox = c :: rest) : (s.setInbox rest).Boundary where
  hostOnly c' hc' := h.hostOnly c' (hi ▸ List.mem_cons_of_mem c hc')
  capacity := h.capacity
  valid := h.valid
  wholeUnits := h.wholeUnits
  handleLive := h.handleLive
  handleKind := h.handleKind
  phaseRest := h.phaseRest
  idleEmpty := h.idleEmpty
  deadEmpty := h.deadEmpty

/-- After a hardware reset the boundary invariants hold, where the host alone has commands pending (R146). -/
theorem hardwareReset_boundary {s : State} (h : ∀ c ∈ s.inbox, c.port = .host) : (hardwareReset s).Boundary where
  hostOnly := h
  capacity := Nat.zero_le _
  valid := rfl
  wholeUnits _ := ⟨rfl, rfl⟩
  handleLive := by simp [hardwareReset, State.resetAs]
  handleKind := nofun
  phaseRest _ := .inl rfl
  idleEmpty _ := rfl
  deadEmpty _ := rfl

/-- Settles O47: the host's commands are public operations, and each of these keeps every clause. -/
theorem boundaryInvariantKept : Obligations.BoundaryInvariantKept := by
  intro s t hs h
  obtain ⟨-, rfl⟩ | rfl | ⟨c, rest, i, hin, hdec, hb, heff⟩ := step_effect h
  · exact hardwareReset_boundary hs.hostOnly
  · exact hs
  · have hhost : c.port = .host := hs.hostOnly c (by simp [hin])
    exact heff.boundary hb (decode_host_public hhost hdec) (hs.setInbox hin)

end Sys2Proof.Machine
end

section
/-!
PROOFS. The family of the statements about the whole machine, fourth part: commands and steps (R44, R60, R144, R146),
and the table of codes (R133).
-/

namespace Sys2Proof.Machine

/-! ## Commands -/

/-- R60, R61: a byte whose zero bits are clear and whose `I` is set is, on the internal path, the micro-operation of its
`D` and `FN`. -/
theorem decode_micro {cmd : Byte} {o : Operands} {i : Instr} (hz : cmdZeros cmd = true) (hi : cmdI cmd = true)
    (h : decodeMicro (cmdD cmd) (cmdFN cmd) o = some i) : decode ⟨.internal, cmd, o⟩ = .ok i := by
  simp only [decode, hz, hi, h]

/-- Settles O3: each operation's byte has its zero bits clear and its own `I`, `D` and `FN`; a delivery is taken back
whole because it holds as many elements as its count says. -/
theorem decodeEncodeAgree : Obligations.DecodeEncodeAgree := by
  intro i hwf
  cases i with
  | accAppend | accCompact | rpkEnc | rpkDec => exact decode_micro (by decide) (by decide) rfl
  | encCreate | encFrameout | encDestroy | decCreate | decFrameout | decDestroy =>
    exact decode_public .host _ (by decide) (by decide)
  | encFramein len nsamp data =>
    have hlen : data.length = nsamp.toNat := by simpa [Instr.wellFormed] using hwf
    refine (decode_public .host _ (by decide) (by decide)).trans ?_
    show Except.ok (Instr.encFramein len nsamp (data.take nsamp.toNat)) = _
    rw [List.take_of_length_le hlen.le]
  | decFramein len nsamp data =>
    have hlen : data.length = len.toNat := by simpa [Instr.wellFormed] using hwf
    refine (decode_public .host _ (by decide) (by decide)).trans ?_
    show Except.ok (Instr.decFramein len nsamp (data.take len.toNat)) = _
    rw [List.take_of_length_le hlen.le]

/-- Settles O1: the eight words are decoded. -/
theorem tableBytesDecode : Obligations.TableBytesDecode :=
  ⟨by decide, by decide, by decide, by decide, by decide, by decide, by decide, by decide⟩

/-- What a table word decodes to, its command decodes to. -/
theorem decode_of_decodeTableWord {nbits w : Nat} {i : Instr} (h : decodeTableWord nbits w = some i) :
    decode (commandOfWord w) = .ok i := by
  unfold decodeTableWord at h
  split at h
  · split at h
    · cases h; assumption
    · cases h
  · cases h

/-! ## Steps -/

/-- R44: with no reset asserted a step runs the first pending command. -/
theorem step_of_decode {s : State} {c : Command} {rest : List Command} {i : Instr} (hr : s.resetLine = false)
    (hin : s.inbox = c :: rest) (hd : decode c = .ok i) : step s = exec i (s.setInbox rest) := by
  simp [step, fetch, hr, hin, hd]

/-- Settles O4: with no reset asserted a step looks at the inbox only. -/
theorem stepRunsDecodedOperation : Obligations.StepRunsDecodedOperation := by
  refine ⟨fun s c rest i => step_of_decode, fun s hr hin => ?_⟩
  simp [step, fetch, hr, hin]

/-- The state a table word is placed before, with the word taken from the inbox again (log entry 28). -/
theorem placeWord_taken (s : State) (w : Nat) : (placeWord s w).setInbox s.inbox =
    (if cmdI (BitVec.ofNat 8 w) then s else s.setDir (cmdD (BitVec.ofNat 8 w))).setResetLine false := by
  show (if cmdI (BitVec.ofNat 8 w) then _ else _ : State).setInbox s.inbox = _
  split <;> rfl

/-- Settles O5: the placed word is the first pending command, with no reset asserted. -/
theorem placedWordRuns : Obligations.PlacedWordRuns := by
  intro s w i h
  have hfields : (placeWord s w).resetLine = false ∧ (placeWord s w).inbox = commandOfWord w :: s.inbox := by
    simp only [placeWord]
    split <;> exact ⟨rfl, rfl⟩
  obtain ⟨hr, hin⟩ := hfields
  rw [← placeWord_taken]
  exact step_of_decode hr hin (decode_of_decodeTableWord h)

/-- Settles O49: the reset line is looked at first, and `hardwareReset` has every field as stated. -/
theorem hardwareResetEffect : Obligations.HardwareResetEffect := by
  intro s hr
  have hstep : step s = .next (hardwareReset s) := by simp [step, hr]
  exact ⟨_, hstep, rfl, rfl, rfl, rfl, rfl, rfl, rfl, rfl, rfl, rfl, rfl, rfl, rfl, rfl, rfl, rfl, rfl⟩

/-- Settles O48: nothing is accumulated, held, pending or called. -/
theorem resetMeetsInvariants : Obligations.ResetMeetsInvariants := by
  intro d
  refine ⟨rfl, rfl, rfl, rfl, rfl, rfl, rfl, ⟨rfl, rfl, rfl, Nat.zero_le _⟩, fun c hc => absurd hc List.not_mem_nil,
    ?boundary, ?lifetime⟩
  case boundary =>
    exact ⟨nofun, Nat.zero_le _, rfl, fun _ => ⟨rfl, rfl⟩, ⟨nofun, nofun⟩, nofun, fun _ => .inl rfl, fun _ => rfl,
      fun _ => rfl⟩
  case lifetime =>
    exact ⟨Nat.zero_le _, Nat.zero_le _, fun _ _ => rfl, fun _ => rfl, nofun, ⟨nofun, nofun⟩⟩

/-- Settles O50: the three tables of numbers, row by row. -/
theorem statusCodes : Obligations.StatusCodes :=
  ⟨rfl, rfl, fun _ => rfl, rfl, fun _ => rfl, rfl, rfl, rfl, rfl, rfl⟩

end Sys2Proof.Machine
end

section
/-!
PROOFS. The family of the statements about the whole machine, fifth part: the frames of the two repackers (R74, R81),
the packed frame as a number, and what ACC.APPEND and ACC.COMPACT do at their edges (R23, R31, R68, R71).
-/

namespace Sys2Proof.Machine

/-! ## The frames of the repackers -/

/-- Settles O7: RPK.ENC writes the 32 bytes of `OB` and uses a draw. -/
theorem repackEncodeFrame : Obligations.RepackEncodeFrame := by
  intro f s hb
  obtain ⟨m, hstate, -⟩ := repackEncode_state f s
  refine ⟨_, _, exec_rpkEnc f hb, rfl, ?written, ?above, ?frame⟩
  case written =>
    intro i hi
    rw [State.finish_obAt, repackEncode_obAt, dif_pos hi]
  case above =>
    intro i hi
    rw [State.finish_obAt, repackEncode_obAt, dif_neg (by omega)]
  case frame => simp [hstate, SameSb, SameW, SameLife, SameContext]

/-- Settles O9: RPK.DEC writes the 32 bytes of `W`. -/
theorem repackDecodeFrame : Obligations.RepackDecodeFrame := by
  intro q s hb
  obtain ⟨m, hstate, -⟩ := repackDecode_state q s
  refine ⟨_, _, execRpkDec_eq hb, rfl, ?written, ?above, ?frame⟩
  case written =>
    intro i hi
    rw [State.finish_wAt, repackDecode_wAt, dif_pos hi]
  case above =>
    intro i hi
    rw [State.finish_wAt, repackDecode_wAt, dif_neg (by omega)]
  case frame => simp [hstate, SameSb, SameOb, SameLife, SameContext]

/-! ## The packed frame as a number -/

/-- The first `k` bytes of a frame as a number, the first byte most significant. -/
def prefixNumber (f : Frame) (k : Nat) : Nat := (f.toList.take k).foldl (fun a b => 256 * a + b.toNat) 0

theorem frameNumber_eq_prefixNumber (f : Frame) : frameNumber f = prefixNumber f 32 := by
  rw [frameNumber, prefixNumber, List.take_of_length_le (by simp)]

theorem prefixNumber_succ (f : Frame) {k : Nat} (h : k < 32) :
    prefixNumber f (k + 1) = 256 * prefixNumber f k + f[k].toNat := by
  have hk : k < f.toList.length := by simpa using h
  simp [prefixNumber, List.take_succ_eq_append_getElem hk]

theorem prefixNumber_lt (f : Frame) : ∀ {k : Nat}, k ≤ 32 → prefixNumber f k < 256 ^ k := by
  intro k
  induction k with
  | zero => simp [prefixNumber]
  | succ k ih =>
    intro hk
    have hlt := ih (by omega)
    have hbyte := f[k].isLt
    rw [prefixNumber_succ f (by omega), Nat.pow_succ]
    omega

theorem joinNibbles_toNat (a b : Nibble) : (joinNibbles a b).toNat = 16 * a.toNat + b.toNat := by
  have hb := b.isLt
  rw [joinNibbles, BitVec.toNat_append, ← Nat.shiftLeft_add_eq_or_of_lt hb, Nat.shiftLeft_eq]
  omega

/-- A byte as a number, by its two nibbles. -/
theorem toNat_eq_nibbles (a : Byte) : a.toNat = 16 * (hi4 a).toNat + (lo4 a).toNat := by
  rw [← joinNibbles_toNat, joinNibbles_hi4_lo4]

/-- R76: the first `k` packed bytes are the first `k` storage bytes moved up one nibble: the first nibble falls out, and
the high nibble of byte `k` comes in. -/
theorem prefixNumber_packFrame (s : Frame) (g : Nibble) : ∀ {k : Nat} (h : k < 32),
    prefixNumber (packFrame s g) k + (hi4 s[0]).toNat * 256 ^ k = 16 * prefixNumber s k + (hi4 s[k]).toNat := by
  intro k
  induction k with
  | zero => simp [prefixNumber]
  | succ k ih =>
    intro h
    have hk := ih (by omega)
    have hbyte := toNat_eq_nibbles s[k]
    rw [prefixNumber_succ _ (by omega), prefixNumber_succ _ (by omega), packFrame_get s g k (by omega),
      joinNibbles_toNat, Nat.pow_succ, ← Nat.mul_assoc]
    omega

/-- Settles O11: the last byte moved up leaves its place to the draw. -/
theorem packedFrameAsNumber : Obligations.PackedFrameAsNumber := by
  intro s g
  have hlast := toNat_eq_nibbles s[31]
  have hlow := (lo4 s[31]).isLt
  have hhigh := (hi4 s[0]).isLt
  have hshift := prefixNumber_packFrame s g (show 31 < 32 by decide)
  have hlt := prefixNumber_lt (packFrame s g) (show 31 ≤ 32 by decide)
  rw [frameNumber_eq_prefixNumber, frameNumber_eq_prefixNumber, prefixNumber_succ _ (show 31 < 32 by decide),
    prefixNumber_succ _ (show 31 < 32 by decide), packFrame_last, joinNibbles_toNat]
  norm_num at hshift hlt hlow hhigh ⊢
  omega

/-! ## ACC.APPEND and ACC.COMPACT at their edges -/

/-- R36: ACC.COMPACT that reaches outside the buffer. -/
theorem execAccCompact_overrun {c r : Nat} {s : State} (hb : s.busy = false) (hc : Config.CAP < c + r) :
    execAccCompact c r s = .fault .bufferOverrun := by
  unfold execAccCompact
  rw [unlessRunning_open _ hb, compact_overrun hc, andThen_fault]

/-- Settles O13: the drop at the new count keeps what stands below it and forgets the rest. -/
theorem appendDropsAboveCount : Obligations.AppendDropsAboveCount := by
  intro existing d s hb hc hs
  refine ⟨_, execAccAppend_eq hb hc, rfl, ?below, ?stored, ?above⟩
  case below =>
    intro i hi
    rw [State.finish_sampleAt, State.setCounts_sampleAt, State.dropAbove_sampleAt (by omega),
      sampleAt_write_outside s (.inl hi)]
  case stored =>
    intro k hk
    rw [State.finish_sampleAt, State.setCounts_sampleAt, State.dropAbove_sampleAt (by omega),
      sampleAt_write_add s existing hk]
  case above =>
    intro i hi
    rw [State.finish_sampleAt, State.setCounts_sampleAt, State.dropAbove_sampleAt_ge (by simpa using hs) hi]
    rfl

/-- Settles O14: the byte counter of an append in a decode context. -/
theorem appendCountsBytesInDecode : Obligations.AppendCountsBytesInDecode := by
  intro existing d s hb hc hd
  exact ⟨_, execAccAppend_eq hb hc, by simp [appendedDatalen, hd]⟩

/-- Settles O15: all reads of a compaction see the state before it. -/
theorem compactMovesToFront : Obligations.CompactMovesToFront := by
  constructor
  · intro consumed remaining s hb hc
    refine ⟨_, execAccCompact_eq hb hc, rfl, rfl, fun k hk => ?_, ?_⟩
    · exact sampleAt_compacted s consumed remaining remaining s.datalen k hk
    · simp [SameOb, SameW, SameLife, SameContext]
  · exact fun consumed remaining s => execAccCompact_overrun

end Sys2Proof.Machine
end

section
/-!
PROOFS. The family of the statements about the whole machine, sixth part: the gates (R98, R108, R140), creation and
destruction (R34, R90, R107), and deliveries that join (R69(e), R93).
-/

namespace Sys2Proof.Machine

/-! ## Refusals and faults pass through a sequence -/

theorem andThen_ne_refused {o : Outcome} {k : State → Outcome} {r : Refusal} (ho : o ≠ .refused r)
    (hk : ∀ s, o = .next s → k s ≠ .refused r) : andThen o k ≠ .refused r := by
  cases o with
  | next s => exact hk s rfl
  | fault => nofun
  | refused => exact ho

theorem unlessHung_ne_refused {o : Outcome} {k : State → Outcome} {r : Refusal} (ho : o ≠ .refused r)
    (hk : ∀ s, o = .next s → k s ≠ .refused r) : unlessHung o k ≠ .refused r := by
  refine andThen_ne_refused ho fun s hs => ?_
  split
  · nofun
  · exact hk s hs

theorem append_ne_refused (e : Nat) (d : List Sample) (s : State) (r : Refusal) : append e d s ≠ .refused r := by
  by_cases hc : e + d.length ≤ Config.CAP
  · rw [append_eq hc]; nofun
  · rw [append_overrun (by omega)]; nofun

theorem compact_ne_refused (c n : Nat) (s : State) (r : Refusal) : compact c n s ≠ .refused r := by
  by_cases hc : c + n ≤ Config.CAP
  · rw [compact_eq hc]; nofun
  · rw [compact_overrun (by omega)]; nofun

/-! ## The gates -/

/-- R98, R108: the gate of FRAMEIN and FRAMEOUT is the only thing that refuses them as not Live. -/
theorem ifLive_eq_notLive {s : State} {k : Outcome} (hk : k ≠ .refused .notLive) :
    ifLive s k = .refused .notLive ↔ s.life ≠ .live := by
  unfold ifLive
  split <;> simp_all

/-- R98, R108: CREATE is refused exactly outside Uncreated. -/
theorem create_eq_alreadyCreated {d : Dir} {s : State} (hd : s.dir = d) (hb : s.busy = false) :
    create d s = .refused .alreadyCreated ↔ s.life ≠ .uncreated := by
  unfold create
  rw [publicOp_open _ hd hb, ifUncreated]
  split <;> simp_all

theorem execEncFramein_eq_notLive {len n : BitVec 16} {d : List Sample} {s : State} (hd : s.dir = .enc)
    (hb : s.busy = false) : execEncFramein len n d s = .refused .notLive ↔ s.life ≠ .live := by
  unfold execEncFramein
  rw [publicOp_open _ hd hb]
  refine ifLive_eq_notLive ?_
  split
  · split
    · nofun
    · exact andThen_ne_refused (append_ne_refused _ _ _ _) fun _ _ => nofun
  · nofun

theorem execEncFrameout_eq_notLive {s : State} (hd : s.dir = .enc) (hb : s.busy = false) :
    execEncFrameout s = .refused .notLive ↔ s.life ≠ .live := by
  unfold execEncFrameout
  rw [publicOp_open _ hd hb]
  refine ifLive_eq_notLive (unlessHung_ne_refused (encodeUnits_not_refused _ _ _ _) fun u _ => ?_)
  exact andThen_ne_refused (compact_ne_refused _ _ _ _) fun _ _ => nofun

theorem execDecFramein_eq_notLive {len n : BitVec 16} {data : List Byte} {s : State} (hd : s.dir = .dec)
    (hb : s.busy = false) : execDecFramein len n data s = .refused .notLive ↔ s.life ≠ .live := by
  unfold execDecFramein
  rw [publicOp_open _ hd hb]
  exact ifLive_eq_notLive (unlessHung_ne_refused (decodeStrides_not_refused _ _ _ _) fun u _ => nofun)

theorem execDecFrameout_eq_notLive {s : State} (hd : s.dir = .dec) (hb : s.busy = false) :
    execDecFrameout s = .refused .notLive ↔ s.life ≠ .live := by
  unfold execDecFrameout
  rw [publicOp_open _ hd hb]
  refine ifLive_eq_notLive ?_
  split
  · nofun
  · split
    · nofun
    · exact andThen_ne_refused (compact_ne_refused _ _ _ _) fun _ _ => nofun

/-- R96, R107: DESTROY is legal in every life. -/
theorem exists_destroy_next {d : Dir} {s : State} (hd : s.dir = d) (hb : s.busy = false) :
    ∃ t, destroy d s = .next t := by
  cases hh : s.handle with
  | none => exact ⟨_, destroy_eq_none hd hb hh⟩
  | some h => exact ⟨_, destroy_eq_some hd hb hh⟩

/-- Settles O24: behind its gates no operation is refused for its life. -/
theorem lifeCycleGates : Obligations.LifeCycleGates := by
  intro s len nsamp pcm packed hb
  constructor
  · intro hd
    exact ⟨create_eq_alreadyCreated hd hb, execEncFramein_eq_notLive hd hb, execEncFrameout_eq_notLive hd hb,
      exists_destroy_next hd hb⟩
  · intro hd
    exact ⟨create_eq_alreadyCreated hd hb, execDecFramein_eq_notLive (n := nsamp) hd hb,
      execDecFrameout_eq_notLive hd hb, exists_destroy_next hd hb⟩

/-- R140: every micro-operation passes the gate of a running operation first. -/
theorem exec_eq_unlessRunning {i : Instr} (s : State) (h : publicDir i = none) :
    ∃ k, exec i s = unlessRunning s k := by
  cases i with
  | accAppend | accCompact | rpkEnc | rpkDec => exact ⟨_, rfl⟩
  | encCreate | encFramein | encFrameout | encDestroy | decCreate | decFramein | decFrameout | decDestroy => cases h

theorem unlessRunning_running {s : State} (k : Outcome) (h : s.busy = true) :
    unlessRunning s k = .refused .reentrant := if_pos h

/-- Settles O25: the direction is checked first, then that none is running, before anything else. -/
theorem noSecondOperationWhileRunning : Obligations.NoSecondOperationWhileRunning := by
  intro i s hb
  cases hi : publicDir i with
  | none =>
    obtain ⟨k, hk⟩ := exec_eq_unlessRunning s hi
    rw [hk, unlessRunning_running k hb, if_pos (.inl rfl)]
  | some d =>
    by_cases hd : s.dir = d
    · obtain ⟨k, hk⟩ := exec_eq_publicOp s hi
      rw [hk, publicOp, if_neg (not_not.2 hd), unlessRunning_running k hb, if_pos (.inr (congrArg some hd.symm))]
    · rw [exec_wrongDirection hi hd, if_neg (by simp [Ne.symm hd])]

/-- Settles O27: the two length fields are compared before the data is read. -/
theorem lengthMismatchRefused : Obligations.LengthMismatchRefused := by
  intro len nsamp d s hb hd hl hlen
  show execEncFramein len nsamp d s = _
  unfold execEncFramein
  rw [publicOp_open _ hd hb, ifLive_open _ hl, if_neg hlen]

/-! ## Creation and destruction -/

/-- Settles O19: what a failed CREATE leaves, `createdFailed`, has every field as stated. -/
theorem failedCreateLeaves : Obligations.FailedCreateLeaves := by
  intro d rest s hb hd hl he
  exact ⟨_, (exec_createInstr d s).trans (create_failed hd hb hl he), rfl, rfl, rfl, fun _ => rfl, rfl, rfl, rfl⟩

/-- The state in which the free answer to a create transaction is queued (log entry 5). -/
def queueFreeCreate (d : Dir) (s : State) : State :=
  s.setEngine { s.engine with creates := [Config.createReply (s.engine.calls ++ [createCall d])] }

/-- With no answer queued, CREATE does what it does with the free answer queued. -/
theorem create_unqueued {d : Dir} {s : State} (hd : s.dir = d) (hb : s.busy = false) (hl : s.life = .uncreated)
    (he : s.engine.creates = []) : create d s = create d (queueFreeCreate d s) := by
  have hsame : engineCreate d s.startOp = engineCreate d (queueFreeCreate d s).startOp := by
    simp only [engineCreate, queueFreeCreate, State.startOp_engine, State.setEngine_engine, he, takeReply_nil,
      takeReply_cons]
    rfl
  rw [create_eq hd hb hl, create_eq (s := queueFreeCreate d s) hd hb hl, hsame]

/-- Settles O20: CREATE of either direction, with the free answer for the one queued. -/
theorem unqueuedAnswerIsFree : Obligations.UnqueuedAnswerIsFree := by
  intro s hb hl he
  exact ⟨fun hd => ⟨create_unqueued hd hb hl he, _, create_eq hd hb hl⟩,
    fun hd => ⟨create_unqueued hd hb hl he, _, create_eq hd hb hl⟩⟩

/-- Settles O22: DEC.DESTROY is DESTROY of the decode direction. -/
theorem decDestroyEffect : Obligations.DecDestroyEffect :=
  ⟨hostByte_of_fields (by decide) (by decide) fun _ => rfl, destroyEffect_of_exec fun _ => rfl⟩

/-! ## Deliveries that join -/

/-- What ENC.FRAMEIN leaves of a delivery `d` that fits (R92). -/
def delivered (d : List Sample) (s : State) : State :=
  (((s.startOp.setSb (Memory.write s.sb s.samples d)).setCounts (s.samples + d.length) s.datalen).setPhase
    .accumulating).finish (.code .ok)

theorem exec_encFramein {len n : BitVec 16} {d : List Sample} {s : State} (hb : s.busy = false) (hd : s.dir = .enc)
    (hl : s.life = .live) (hlen : len.toNat = 2 * n.toNat) (hn : d.length = n.toNat)
    (hc : s.samples + n.toNat ≤ Config.CAP) : exec (.encFramein len n d) s = .next (delivered d s) := by
  rw [delivered, hn]
  exact execEncFramein_eq hb hd hl hlen hn hc

/-- R69(e): two adjacent writes are one, and every other field is set alike by the last delivery. -/
theorem delivered_delivered (a b : List Sample) (s : State) : delivered b (delivered a s) = delivered (a ++ b) s := by
  simp only [delivered, State.startOp, State.setSb, State.setCounts, State.setPhase, State.finish, Memory.write_write,
    List.length_append, Nat.add_assoc]

/-- Settles O16. -/
theorem deliveriesJoin : Obligations.DeliveriesJoin := by
  intro len₁ n₁ len₂ n₂ len n a b s hb hd hl hlen₁ hlen₂ hlen ha hlenb hn hc
  have hsum : (a ++ b).length = n.toNat := by rw [List.length_append, ha, hlenb, hn]
  have hfits : (delivered a s).samples + n₂.toNat ≤ Config.CAP := by
    show s.samples + a.length + n₂.toNat ≤ Config.CAP
    omega
  refine ⟨delivered (a ++ b) s, ?_, exec_encFramein hb hd hl hlen hsum hc⟩
  rw [exec_encFramein hb hd hl hlen₁ ha (by omega), andThen_next,
    exec_encFramein (s := delivered a s) hb hd hl hlen₂ hlenb hfits, delivered_delivered]

end Sys2Proof.Machine
end

section
/-!
PROOFS. The family of the statements about the whole machine, seventh part: an ENC.FRAMEOUT's frames and units (R94,
R95), deliveries that are short (R36), and the capacity contract (R152).
-/

namespace Sys2Proof.Machine

/-! ## Frames and units -/

theorem mismatchesFor_cons (a : EncodeAnswer) (as : List EncodeAnswer) : mismatchesFor (a :: as) =
    if a.status = Config.ENC_OK then mismatchesFor as else .encodeStatusMismatch a.status :: mismatchesFor as := by
  by_cases h : a.status = Config.ENC_OK <;> simp [mismatchesFor, h]

/-- R95: each answer gives one frame or one event. -/
theorem framesFor_length_add (as : List EncodeAnswer) : ∀ d : Nat,
    (framesFor as d).length + (mismatchesFor as).length = as.length := by
  induction as with
  | nil => intro d; rfl
  | cons a as ih =>
    intro d
    by_cases h : a.status = Config.ENC_OK
    · simp only [framesFor, mismatchesFor_cons, if_pos h, List.length_cons, ← ih (d + 1)]
      omega
    · simp only [framesFor, mismatchesFor_cons, if_neg h, List.length_cons, ← ih d]
      omega

/-- R55: every frame is a packed one. -/
theorem framesFor_packed (as : List EncodeAnswer) : ∀ d : Nat, ∀ f ∈ framesFor as d, ∃ p, f = packedRecord p := by
  induction as with
  | nil => intro d f hf; cases hf
  | cons a as ih =>
    intro d f hf
    rw [framesFor] at hf
    split at hf
    · obtain rfl | hf := List.mem_cons.1 hf
      · exact ⟨_, rfl⟩
      · exact ih _ f hf
    · exact ih _ f hf

/-- Settles O30: an ENC.FRAMEOUT that does not wait took one answer for each unit. -/
theorem frameCountConservation : Obligations.FrameCountConservation := by
  intro s t h hb
  obtain ⟨-, -, -, as, u, hu, ⟨hub, rfl⟩ | ⟨hub, -, rfl⟩⟩ := execEncFrameout_run h
  · rw [hub] at hb; cases hb
  obtain ⟨cs, hcs, -, hlen⟩ := hu.calls
  have hchain : u.chain = framesFor as s.draws := by simpa using hu.chain
  have hcount := framesFor_length_add as s.draws
  have has : as.length = s.samples / 160 := hu.answered hub
  refine ⟨?counts, ?calls, ?left, ?frames⟩
  case counts =>
    show u.chain.length + (u.log.length - s.log.length) = _
    rw [hchain, hu.log, List.length_append, State.startOp_log]
    omega
  case calls =>
    show u.engine.calls.length = _
    rw [hcs, List.length_append, hlen hub]
    rfl
  case left =>
    show s.samples - 160 * (s.samples / 160) = _
    omega
  case frames =>
    intro f (hf : f ∈ u.chain)
    obtain ⟨p, rfl⟩ := framesFor_packed as s.draws f (hchain ▸ hf)
    exact ⟨rfl, rfl⟩

/-! ## Short deliveries -/

/-- R36: a PCM delivery that holds fewer samples than its count. -/
theorem execEncFramein_short {len n : BitVec 16} {d : List Sample} {s : State} (hb : s.busy = false)
    (hd : s.dir = .enc) (hl : s.life = .live) (hlen : len.toNat = 2 * n.toNat) (hn : d.length < n.toNat) :
    execEncFramein len n d s = .fault .bufferOverrun := by
  have hread : readPcm d n.toNat = none := if_neg (Nat.not_le.2 hn)
  unfold execEncFramein
  simp only [publicOp_open _ hd hb, ifLive_open _ hl, if_pos hlen, hread]

/-- R36: the loop over a packed delivery that ends inside the stride after the answered ones: that stride cannot be
read, unless a block before it has overrun the buffer. -/
theorem decodeStrides_short {data : List Byte} (m : Nat) (bs : List Block) :
    ∀ (n : Nat) (s : State) (rest : List (Reply Block)), s.busy = false →
      Config.PSTRIDE * (n + bs.length) ≤ data.length → data.length < Config.PSTRIDE * (n + bs.length + 1) →
      s.engine.decodes = bs.map .answer ++ rest →
      decodeStrides data (bs.length + (m + 1)) (Config.PSTRIDE * n) s = .fault .bufferOverrun := by
  induction bs with
  | nil =>
    intro n s rest _ _ hshort _
    have hread : readStride data (Config.PSTRIDE * n) = none := if_neg (Nat.not_le.2 hshort)
    simp only [List.length_nil, decodeStrides, decodeStride, hread, unlessHung, andThen_fault]
  | cons b bs ih =>
    intro n s rest hb hle hshort he
    simp only [List.length_cons] at hle hshort
    have hq : readStride data (Config.PSTRIDE * n) = some (strideOf data n) :=
      readStride_strideOf (by simp only [Config.PSTRIDE] at hle ⊢; omega)
    rw [List.length_cons, Nat.succ_add]
    by_cases hc : s.samples + Config.UNIT ≤ Config.CAP
    · obtain ⟨u, hu, -, hub, -, -, -, -, -, hue, -⟩ := decodeStride_answered (s := s) hq he hc
      have hn : n + 1 + bs.length = n + (bs.length + 1) := by omega
      have hrest := ih (n + 1) u rest (hub.trans hb) (hn ▸ hle) (hn ▸ hshort) hue
      rw [decodeStrides, hu, unlessHung_next_of_idle _ (hub.trans hb)]
      exact hrest
    · rw [decodeStrides, decodeStride_overrun hq he (Nat.lt_of_not_le hc), unlessHung, andThen_fault]

/-- A stride inside a delivery does not see what follows the delivery. -/
theorem readStride_append {data : List Byte} (more : List Byte) {x : Nat} (h : x + Config.PSTRIDE ≤ data.length) :
    readStride (data ++ more) x = readStride data x := by
  rw [readStride_eq h, readStride_eq (by rw [List.length_append]; omega)]
  congr 2
  funext i
  rw [List.getD_append _ _ _ _ (by have := i.isLt; simp only [Config.PSTRIDE] at h; omega)]

theorem decodeStrides_append {data : List Byte} (more : List Byte) : ∀ (m x : Nat) (s : State),
    x + Config.PSTRIDE * m ≤ data.length → decodeStrides (data ++ more) m x s = decodeStrides data m x s := by
  intro m
  induction m with
  | zero => intro x s _; rfl
  | succ m ih =>
    intro x s h
    rw [Nat.mul_succ] at h
    have hread := readStride_append more (show x + Config.PSTRIDE ≤ data.length by omega)
    have hrest : decodeStrides (data ++ more) m (x + Config.PSTRIDE) = decodeStrides data m (x + Config.PSTRIDE) :=
      funext fun s' => ih _ s' (by omega)
    simp only [decodeStrides, decodeStride, hread, hrest]

/-- Settles O33: what is read outside the delivery's end faults; what is not read has no influence. -/
theorem shortDeliveryFaults : Obligations.ShortDeliveryFaults := by
  refine ⟨fun len nsamp d s => execEncFramein_short, ?packed, ?trailing⟩
  case packed =>
    intro len nsamp data bs rest s hb hd hl hshort hbs he
    obtain ⟨m, hm⟩ := Nat.exists_eq_add_of_lt (show bs.length < len.toNat / 31 by omega)
    have hle : Config.PSTRIDE * (0 + bs.length) ≤ data.length := by simp only [Config.PSTRIDE]; omega
    have hlt : data.length < Config.PSTRIDE * (0 + bs.length + 1) := by simp only [Config.PSTRIDE]; omega
    have hloop := decodeStrides_short m bs 0 s.startOp rest hb hle hlt he
    have hcount : bs.length + (m + 1) = strideCount len.toNat := hm.symm
    rw [hcount] at hloop
    exact execDecFramein_fault (n := nsamp) hb hd hl hloop
  case trailing =>
    intro len nsamp data more s hle
    have hloop := decodeStrides_append more (strideCount len.toNat) 0 s.startOp (by rw [Nat.zero_add]; exact hle)
    show execDecFramein len nsamp (data ++ more) s = execDecFramein len nsamp data s
    unfold execDecFramein
    rw [hloop]

/-! ## The capacity contract -/

theorem andThen_ne_fault {o : Outcome} {k : State → Outcome} {r : Fault} (ho : o ≠ .fault r)
    (hk : ∀ s, o = .next s → k s ≠ .fault r) : andThen o k ≠ .fault r := by
  cases o with
  | next s => exact hk s rfl
  | fault => exact ho
  | refused => nofun

theorem unlessHung_ne_fault {o : Outcome} {k : State → Outcome} {r : Fault} (ho : o ≠ .fault r)
    (hk : ∀ s, o = .next s → k s ≠ .fault r) : unlessHung o k ≠ .fault r := by
  refine andThen_ne_fault ho fun s hs => ?_
  split
  · nofun
  · exact hk s hs

theorem unlessRunning_ne_fault {s : State} {k : Outcome} {r : Fault} (hk : k ≠ .fault r) :
    unlessRunning s k ≠ .fault r := by
  unfold unlessRunning
  split
  · nofun
  · exact hk

theorem publicOp_ne_fault {d : Dir} {s : State} {k : Outcome} {r : Fault} (hk : k ≠ .fault r) :
    publicOp d s k ≠ .fault r := by
  unfold publicOp
  split
  · nofun
  · exact unlessRunning_ne_fault hk

theorem ifLive_ne_fault {s : State} {k : Outcome} {r : Fault} (hk : k ≠ .fault r) : ifLive s k ≠ .fault r := by
  unfold ifLive
  split
  · exact hk
  · nofun

theorem create_ne_fault (d : Dir) (s : State) (r : Fault) : create d s ≠ .fault r := by
  refine publicOp_ne_fault ?_
  unfold ifUncreated
  split <;> nofun

theorem destroy_ne_fault (d : Dir) (s : State) (r : Fault) : destroy d s ≠ .fault r := by
  refine publicOp_ne_fault ?_
  split <;> nofun

theorem append_ne_fault {e : Nat} {d : List Sample} (s : State) (r : Fault) (hc : e + d.length ≤ Config.CAP) :
    append e d s ≠ .fault r := by
  rw [append_eq hc]; nofun

theorem compact_ne_fault {c n : Nat} (s : State) (r : Fault) (hc : c + n ≤ Config.CAP) :
    compact c n s ≠ .fault r := by
  rw [compact_eq hc]; nofun

/-- Settles O38: inside the contract every access is inside its buffer, also after an engine call that waits. -/
theorem noFaultWithinCapacity : Obligations.NoFaultWithinCapacity := by
  intro i s r hs hc
  cases i with
  | accAppend e d => exact unlessRunning_ne_fault (andThen_ne_fault (append_ne_fault s r hc) fun _ _ => nofun)
  | accCompact c n => exact unlessRunning_ne_fault (andThen_ne_fault (compact_ne_fault s r hc) fun _ _ => nofun)
  | rpkEnc f => exact unlessRunning_ne_fault nofun
  | rpkDec q => exact unlessRunning_ne_fault nofun
  | encCreate => exact create_ne_fault _ _ _
  | decCreate => exact create_ne_fault _ _ _
  | encDestroy => exact destroy_ne_fault _ _ _
  | decDestroy => exact destroy_ne_fault _ _ _
  | encFramein len n d =>
    obtain ⟨hn, hc⟩ := hc
    have hread : readPcm d n.toNat = some d := by rw [readPcm, if_pos hn.ge, List.take_of_length_le hn.le]
    refine publicOp_ne_fault (ifLive_ne_fault ?_)
    rw [hread]
    split
    · exact andThen_ne_fault (append_ne_fault _ r (by rwa [hn])) fun _ _ => nofun
    · nofun
  | encFrameout =>
    have hle : Config.UNIT * unitCount s.samples ≤ s.samples := Nat.mul_div_le _ _
    obtain ⟨u, hu⟩ := encodeUnits_total (unitCount s.samples) 0 s.startOp (by omega)
    refine publicOp_ne_fault (ifLive_ne_fault (unlessHung_ne_fault (by rw [hu]; nofun) fun _ _ => ?_))
    exact andThen_ne_fault (compact_ne_fault _ r (by omega)) fun _ _ => nofun
  | decFramein len n data =>
    obtain ⟨hn, hc⟩ := hc
    have hle : 0 + Config.PSTRIDE * strideCount len.toNat ≤ data.length := by
      rw [hn, Nat.zero_add]; exact Nat.mul_div_le _ _
    obtain ⟨u, hu⟩ := decodeStrides_total (strideCount len.toNat) 0 s.startOp hle hc
    exact publicOp_ne_fault (ifLive_ne_fault (unlessHung_ne_fault (by rw [hu]; nofun) fun _ _ => nofun))
  | decFrameout =>
    refine publicOp_ne_fault (ifLive_ne_fault ?_)
    rw [readSb_eq (by omega)]
    split
    · nofun
    · exact andThen_ne_fault (compact_ne_fault _ r hs) fun _ _ => nofun

end Sys2Proof.Machine
end

section
/-!
PROOFS. The family of the statements about the whole machine, eighth part: where the host drains makes no difference
(R41(a), R94).
-/

namespace Sys2Proof.Machine

/-! ## One drain, with the fields a later operation meets -/

/-- What an ENC.FRAMEOUT whose units are answered by `as` leaves, with `rest` of the queue (R94). -/
structure DrainsTo (as : List EncodeAnswer) (rest : List (Reply EncodeAnswer)) (s t : State) : Prop where
  dir : t.dir = s.dir
  busy : t.busy = s.busy
  life : t.life = s.life
  handle : t.handle = s.handle
  draws : t.draws = s.draws + successCount as
  chain : t.chain = framesFor as s.draws
  log : t.log = s.log ++ mismatchesFor as
  encodes : t.engine.encodes = rest
  calls : t.engine.calls = s.engine.calls ++
    (List.range (s.samples / 160)).map fun k => .encode s.handle 7 (s.unit k) Config.forceFlag
  samples : t.samples = s.samples - 160 * (s.samples / 160)
  moved : ∀ k, k < t.samples → t.sampleAt k = s.sampleAt (160 * (s.samples / 160) + k)

theorem exec_encFrameout_drains {as : List EncodeAnswer} {rest : List (Reply EncodeAnswer)} {s : State}
    (hb : s.busy = false) (hd : s.dir = .enc) (hl : s.life = .live) (hc : s.samples ≤ Config.CAP)
    (hlen : as.length = s.samples / 160) (he : s.engine.encodes = as.map .answer ++ rest) :
    ∃ t, exec .encFrameout s = .next t ∧ DrainsTo as rest s t := by
  obtain ⟨t, hexec, -, hchain, hlog, hengine, hsamples, hmoved, -, hdraws, -, -, hlife, hhandle, -, -, hctx⟩ :=
    encFrameoutDrains.2 as rest s hb hd hl hc hlen he
  obtain ⟨hdir, -, -, -, hbusy⟩ := hctx
  exact ⟨t, hexec, hdir, hbusy, hlife, hhandle, hdraws, hchain, hlog, by rw [hengine], by rw [hengine], hsamples,
    hmoved⟩

/-! ## A buffer of which the front is gone -/

/-- `t` holds the samples of `u` from index `n` on. -/
structure Behind (n : Nat) (t u : State) : Prop where
  samples : n + t.samples = u.samples
  sampleAt : ∀ k, k < t.samples → t.sampleAt k = u.sampleAt (n + k)

theorem DrainsTo.behind {as : List EncodeAnswer} {rest : List (Reply EncodeAnswer)} {s t : State}
    (h : DrainsTo as rest s t) : Behind (160 * (s.samples / 160)) t s :=
  ⟨by have := h.samples; omega, h.moved⟩

theorem Behind.trans {n m : Nat} {t u v : State} (h : Behind m t u) (k : Behind n u v) : Behind (n + m) t v := by
  have hn := h.samples
  have hm := k.samples
  refine ⟨by omega, fun i hi => ?_⟩
  rw [h.sampleAt i hi, k.sampleAt (m + i) (by omega), Nat.add_assoc]

theorem delivered_sampleAt (d : List Sample) (s : State) (i : Nat) : (delivered d s).sampleAt i =
    if s.samples ≤ i ∧ i < s.samples + d.length then d.getD (i - s.samples) 0 else s.sampleAt i :=
  sampleAt_write s.startOp s.samples d i

@[simp] theorem delivered_samples (d : List Sample) (s : State) : (delivered d s).samples = s.samples + d.length := rfl
@[simp] theorem delivered_handle (d : List Sample) (s : State) : (delivered d s).handle = s.handle := rfl
@[simp] theorem delivered_engine (d : List Sample) (s : State) : (delivered d s).engine = s.engine := rfl
@[simp] theorem delivered_log (d : List Sample) (s : State) : (delivered d s).log = s.log := rfl
@[simp] theorem delivered_draws (d : List Sample) (s : State) : (delivered d s).draws = s.draws := rfl

/-- The same delivery to both keeps the one behind the other. -/
theorem Behind.delivered {n : Nat} {t u : State} (h : Behind n t u) (d : List Sample) :
    Behind n (delivered d t) (delivered d u) := by
  have hn := h.samples
  refine ⟨by simp only [delivered_samples]; omega, fun k hk => ?_⟩
  rw [delivered_samples] at hk
  rw [delivered_sampleAt, delivered_sampleAt]
  by_cases hnew : t.samples ≤ k
  · have hsub : n + k - u.samples = k - t.samples := by omega
    rw [if_pos (by omega), if_pos (by omega), hsub]
  · rw [if_neg (by omega), if_neg (by omega), h.sampleAt k (by omega)]

theorem State.slice_congr {t u : State} {a c m : Nat} (h : ∀ k, k < m → t.sampleAt (a + k) = u.sampleAt (c + k)) :
    t.slice a m = u.slice c m := by
  simp only [State.slice]
  exact List.map_congr_left fun k hk => h k (List.mem_range.1 hk)

/-- A full unit of a buffer is the same one before the next delivery and after it. -/
theorem unit_delivered {s : State} (d : List Sample) {k : Nat} (h : k < s.samples / 160) :
    (delivered d s).unit k = s.unit k := by
  refine State.slice_congr fun i hi => ?_
  simp only [Config.UNIT] at hi ⊢
  rw [delivered_sampleAt, if_neg (by omega)]

/-- Unit `k` of what stands `N` units behind is unit `N + k` of the whole. -/
theorem Behind.unit {N : Nat} {t u : State} (h : Behind (160 * N) t u) {k : Nat} (hk : k < t.samples / 160) :
    t.unit k = u.unit (N + k) := by
  refine State.slice_congr fun i hi => ?_
  simp only [Config.UNIT] at hi ⊢
  rw [h.sampleAt _ (by omega), Nat.mul_add, Nat.add_assoc]

/-! ## Two drains and one -/

section
variable {as₁ as₂ : List EncodeAnswer} {rest : List (Reply EncodeAnswer)} {s t t' u : State} {d : List Sample}
  (h₁ : DrainsTo as₁ (as₂.map .answer ++ rest) s t) (h₂ : DrainsTo as₂ rest (delivered d t) t')
  (h : DrainsTo (as₁ ++ as₂) rest (delivered d s) u)
include h₁

/-- A drain before the delivery takes whole units away, so that those of the whole are its own and the later ones. -/
theorem DrainsTo.units_add : (delivered d s).samples / 160 = s.samples / 160 + (delivered d t).samples / 160 := by
  have hs := h₁.samples
  simp only [delivered_samples]
  omega

include h₂ h

/-- R41(a): the same transactions. -/
theorem DrainsTo.calls_join : t'.engine.calls = u.engine.calls := by
  have hfirst : (List.range (s.samples / 160)).map (fun k => EngineCall.encode s.handle 7 (s.unit k) Config.forceFlag) =
      (List.range (s.samples / 160)).map fun k => .encode s.handle 7 ((delivered d s).unit k) Config.forceFlag :=
    List.map_congr_left fun k hk => by rw [unit_delivered d (List.mem_range.1 hk)]
  have hsecond : (List.range ((delivered d t).samples / 160)).map
        (fun k => EngineCall.encode s.handle 7 ((delivered d t).unit k) Config.forceFlag) =
      (List.range ((delivered d t).samples / 160)).map fun k =>
        .encode s.handle 7 ((delivered d s).unit (s.samples / 160 + k)) Config.forceFlag :=
    List.map_congr_left fun k hk => by rw [(h₁.behind.delivered d).unit (List.mem_range.1 hk)]
  rw [h.calls, h₁.units_add, List.range_add, List.map_append, List.map_map, h₂.calls, delivered_engine, h₁.calls,
    delivered_handle, h₁.handle, hfirst, hsecond, delivered_engine, delivered_handle, List.append_assoc]
  rfl

/-- R94: the same frames, in the same order, of the same draws. -/
theorem DrainsTo.chain_join : t.chain ++ t'.chain = u.chain := by
  rw [h₁.chain, h₂.chain, h.chain, delivered_draws, delivered_draws, h₁.draws, framesFor_append]

/-- R129: the same events. -/
theorem DrainsTo.log_join : t'.log = u.log := by
  rw [h₂.log, h.log, delivered_log, delivered_log, h₁.log, mismatchesFor_append, List.append_assoc]

/-- R94: what is left stands behind the same number of units. -/
theorem DrainsTo.left_join :
    t'.samples = u.samples ∧ ∀ k, k < t'.samples → t'.sampleAt k = u.sampleAt k := by
  have htwo := h₂.behind.trans (h₁.behind.delivered d)
  have hone := h.behind
  rw [h₁.units_add, Nat.mul_add] at hone
  have hsamples : t'.samples = u.samples := by
    have ht := htwo.samples
    have hu := hone.samples
    omega
  exact ⟨hsamples, fun k hk => (htwo.sampleAt k hk).trans (hone.sampleAt k (hsamples ▸ hk)).symm⟩

end

/-- The answers queued for the units of a buffer and of a delivery after it serve either way of draining. -/
theorem exists_drains {as : List EncodeAnswer} {rest : List (Reply EncodeAnswer)} {s : State} {d : List Sample}
    (hb : s.busy = false) (hd : s.dir = .enc) (hl : s.life = .live) (hc : s.samples + d.length ≤ Config.CAP)
    (has : as.length = (s.samples + d.length) / 160) (he : s.engine.encodes = as.map .answer ++ rest) :
    ∃ as₁ as₂ t t' u,
      exec .encFrameout s = .next t ∧ DrainsTo as₁ (as₂.map .answer ++ rest) s t ∧
      exec .encFrameout (delivered d t) = .next t' ∧ DrainsTo as₂ rest (delivered d t) t' ∧
      exec .encFrameout (delivered d s) = .next u ∧ DrainsTo (as₁ ++ as₂) rest (delivered d s) u := by
  have hsplit := List.take_append_drop (s.samples / 160) as
  have hlen₁ : (as.take (s.samples / 160)).length = s.samples / 160 := by rw [List.length_take]; omega
  have hlen₂ : (as.drop (s.samples / 160)).length = as.length - s.samples / 160 := List.length_drop
  generalize as.take (s.samples / 160) = as₁ at hsplit hlen₁
  generalize as.drop (s.samples / 160) = as₂ at hsplit hlen₂
  subst hsplit
  rw [List.map_append, List.append_assoc] at he
  obtain ⟨t, hexec₁, h₁⟩ := exec_encFrameout_drains hb hd hl (by omega) hlen₁ he
  have hunits := h₁.units_add (d := d)
  have hleft := h₁.samples
  rw [delivered_samples] at hunits
  obtain ⟨t', hexec₂, h₂⟩ := exec_encFrameout_drains (s := delivered d t) (h₁.busy.trans hb) (h₁.dir.trans hd)
    (h₁.life.trans hl) (by rw [delivered_samples]; omega) (by omega) h₁.encodes
  obtain ⟨u, hexec, h⟩ := exec_encFrameout_drains (as := as₁ ++ as₂) (rest := rest) (s := delivered d s) hb hd hl hc has
    (by rw [List.map_append, List.append_assoc]; exact he)
  exact ⟨as₁, as₂, t, t', u, hexec₁, h₁, hexec₂, h₂, hexec, h⟩

/-- Settles O29: the two drains take the answers, the units and the draws of the one drain in two pieces. -/
theorem drainPointsIrrelevant : Obligations.DrainPointsIrrelevant := by
  intro len₁ n₁ len₂ n₂ a b as rest s hb hd hl hlen₁ hlen₂ ha hlenb hc has he
  have hdeliver := exec_encFramein hb hd hl hlen₁ ha (by omega)
  have hsum : s.samples + n₁.toNat + n₂.toNat = (delivered a s).samples + b.length := by
    rw [delivered_samples, ha, hlenb]
  rw [hsum] at hc has
  have hbs : (delivered a s).busy = false := hb
  have hds : (delivered a s).dir = .enc := hd
  have hls : (delivered a s).life = .live := hl
  obtain ⟨as₁, as₂, t, t', u, hexec₁, h₁, hexec₂, h₂, hexec, h⟩ := exists_drains hbs hds hls hc has he
  have hfit : t.samples + n₂.toNat ≤ Config.CAP := by
    have hleft := h₁.samples
    omega
  have hagain := exec_encFramein (h₁.busy.trans hbs) (h₁.dir.trans hds) (h₁.life.trans hls) hlen₂ hlenb hfit
  have hboth := exec_encFramein hbs hds hls hlen₂ hlenb (by omega)
  obtain ⟨hsamples, hleft⟩ := h₁.left_join h₂ h
  exact ⟨_, t, _, t', _, _, u, hdeliver, hexec₁, hagain, hexec₂, hdeliver, hboth, hexec, h₁.calls_join h₂ h,
    h₂.encodes.trans h.encodes.symm, h₁.chain_join h₂ h, h₁.log_join h₂ h, hsamples, hleft⟩

end Sys2Proof.Machine
end

section
/-!
PROOFS. The family of the statements about the whole machine, ninth part: an operation returns where the engine answers
(R99, R109, R145), and waits where it does not (R145, R158).
-/

namespace Sys2Proof.Machine

/-! ## An engine that answers -/

variable {α : Type}

/-- A queue of answers that is long enough begins with an answer, and goes on as such a queue. -/
theorem exists_answer {q : List (Reply α)} {n : Nat} (hn : n + 1 ≤ q.length) (hq : q.all isAnswer = true) :
    ∃ a rest, q = .answer a :: rest ∧ n ≤ rest.length ∧ rest.all isAnswer = true := by
  cases q with
  | nil => cases hn
  | cons r rest =>
    cases r with
    | silent => cases hq
    | answer a => exact ⟨a, rest, rfl, Nat.le_of_succ_le_succ hn, by simpa [isAnswer] using hq⟩

theorem create_returns {d : Dir} {s t : State} (hn : 1 ≤ s.engine.creates.length)
    (hq : s.engine.creates.all isAnswer = true) (h : create d s = .next t) : t.busy = false := by
  obtain ⟨hd, hb, hl, -⟩ := create_eq_next h
  obtain ⟨a, rest, he, -, -⟩ := exists_answer hn hq
  cases a with
  | none =>
    rw [create_failed hd hb hl he] at h
    cases h
    exact hb
  | some id =>
    rw [create_live hd hb hl he] at h
    cases h
    exact hb

theorem destroy_returns {d : Dir} {s t : State} (hn : 1 ≤ s.engine.destroys.length)
    (hq : s.engine.destroys.all isAnswer = true) (h : destroy d s = .next t) : t.busy = false := by
  obtain ⟨hd, hb, -⟩ := destroy_eq_next h
  cases hh : s.handle with
  | none =>
    rw [destroy_unheld hd hb hh] at h
    cases h
    exact hb
  | some hdl =>
    obtain ⟨a, rest, he, -, -⟩ := exists_answer hn hq
    rw [destroy_answered hd hb hh he] at h
    cases h
    exact hb

/-- The state in which the answer to a unit's call comes in, with `rest` still queued (R94). -/
def unitCalled (c : Nat) (rest : List (Reply EncodeAnswer)) (s : State) : State :=
  (s.setPhase .frameReady).setEngine { s.engine with
    encodes := rest,
    calls := s.engine.calls ++ [.encode s.handle Config.MODE_SEL (s.slice c Config.UNIT) Config.forceFlag] }

theorem encodeUnit_queued {c : Nat} {s : State} {r : Reply EncodeAnswer} {rest : List (Reply EncodeAnswer)}
    (hc : c + Config.UNIT ≤ Config.CAP) (he : s.engine.encodes = r :: rest) :
    encodeUnit c s = .next (encodeAnswered r (unitCalled c rest s)) := by
  rw [encodeUnit_eq hc, engineEncode_queued (s := s.setPhase .frameReady) he]
  rfl

/-- A unit whose call is answered leaves nothing running and takes that answer. -/
theorem encodeUnit_returns {c : Nat} {s t : State} {a : EncodeAnswer} {rest : List (Reply EncodeAnswer)}
    (he : s.engine.encodes = .answer a :: rest) (h : encodeUnit c s = .next t) :
    t.busy = s.busy ∧ t.engine.encodes = rest := by
  obtain ⟨hc, -⟩ := encodeUnit_eq_next h
  rw [encodeUnit_queued hc he] at h
  obtain rfl := Host.Outcome.next.inj h
  obtain ⟨-, hengine, -, ⟨hsilent, -⟩ | ⟨-, -, hbusy, -⟩⟩ := encodeAnswered_spec (.answer a) (unitCalled c rest s)
  · cases hsilent
  · exact ⟨hbusy, by rw [hengine]; rfl⟩

theorem encodeUnits_returns : ∀ (n c : Nat) {s t : State}, s.busy = false → n ≤ s.engine.encodes.length →
    s.engine.encodes.all isAnswer = true → encodeUnits n c s = .next t → t.busy = false := by
  intro n
  induction n with
  | zero => intro c s t hb _ _ h; cases h; exact hb
  | succ n ih =>
    intro c s t hb hn hq h
    obtain ⟨a, rest, he, hn', hq'⟩ := exists_answer hn hq
    obtain ⟨u, hu, hrest⟩ := unlessHung_eq_next.1 h
    obtain ⟨hbu, heu⟩ := encodeUnit_returns he hu
    obtain ⟨hub, -⟩ | ⟨hub, hrest⟩ := hrest
    · rw [hbu, hb] at hub
      cases hub
    · exact ih _ hub (heu ▸ hn') (heu ▸ hq') hrest

/-- A stride whose call is answered leaves nothing running and takes that answer. -/
theorem decodeStride_returns {data : List Byte} {x : Nat} {s t : State} {b : Block} {rest : List (Reply Block)}
    (he : s.engine.decodes = .answer b :: rest) (h : decodeStride data x s = .next t) :
    t.busy = s.busy ∧ t.engine.decodes = rest := by
  obtain ⟨q, hq, -⟩ := decodeStride_eq_next h
  by_cases hc : s.samples + Config.UNIT ≤ Config.CAP
  · obtain ⟨u, hu, -, hbusy, -, -, -, -, -, hqueue, -⟩ := decodeStride_answered hq he hc
    rw [hu] at h
    cases h
    exact ⟨hbusy, hqueue⟩
  · rw [decodeStride_overrun hq he (Nat.lt_of_not_le hc)] at h
    cases h

theorem decodeStrides_returns {data : List Byte} : ∀ (m x : Nat) {s t : State}, s.busy = false →
    m ≤ s.engine.decodes.length → s.engine.decodes.all isAnswer = true → decodeStrides data m x s = .next t →
    t.busy = false := by
  intro m
  induction m with
  | zero => intro x s t hb _ _ h; cases h; exact hb
  | succ m ih =>
    intro x s t hb hm hq h
    obtain ⟨b, rest, he, hm', hq'⟩ := exists_answer hm hq
    obtain ⟨u, hu, hrest⟩ := unlessHung_eq_next.1 h
    obtain ⟨hbu, heu⟩ := decodeStride_returns he hu
    obtain ⟨hub, -⟩ | ⟨hub, hrest⟩ := hrest
    · rw [hbu, hb] at hub
      cases hub
    · exact ih _ hub (heu ▸ hm') (heu ▸ hq') hrest

theorem responds_iff {n : Nat} {q : List (Reply α)} :
    (decide (n ≤ q.length) && q.all isAnswer) = true ↔ n ≤ q.length ∧ q.all isAnswer = true := by
  rw [Bool.and_eq_true, decide_eq_true_eq]

/-- Settles O37: an operation that calls the engine takes answers from its own queue only; the others do not wait. -/
theorem answeredOperationsReturn : Obligations.AnsweredOperationsReturn := by
  intro i s t hb hr h
  cases i with
  | accAppend e d =>
    obtain ⟨-, -, rfl⟩ := execAccAppend_eq_next h
    simpa using hb
  | accCompact c n =>
    obtain ⟨-, -, rfl⟩ := execAccCompact_eq_next h
    exact hb
  | rpkEnc f =>
    obtain ⟨-, m, p, rfl, -⟩ := execRpkEnc_eq_next h
    exact hb
  | rpkDec q =>
    obtain ⟨-, m, p, rfl, -⟩ := execRpkDec_eq_next h
    exact hb
  | encCreate | decCreate =>
    obtain ⟨hn, hq⟩ := responds_iff.1 hr
    exact create_returns hn hq h
  | encDestroy | decDestroy =>
    obtain ⟨hn, hq⟩ := responds_iff.1 hr
    exact destroy_returns hn hq h
  | encFramein len n d =>
    obtain ⟨-, -, -, -, -, -, rfl⟩ := execEncFramein_eq_next h
    exact hb
  | encFrameout =>
    obtain ⟨hn, hq⟩ := responds_iff.1 hr
    obtain ⟨-, -, -, u, hu, hcase⟩ := execEncFrameout_eq_next h
    have hub := encodeUnits_returns (s := s.startOp) _ _ hb hn hq hu
    obtain ⟨-, rfl⟩ | ⟨-, -, rfl⟩ := hcase <;> exact hub
  | decFramein len n data =>
    obtain ⟨hn, hq⟩ := responds_iff.1 hr
    obtain ⟨-, -, -, u, hu, hcase⟩ := execDecFramein_eq_next (n := n) h
    have hub := decodeStrides_returns (s := s.startOp) _ _ hb hn hq hu
    obtain ⟨-, rfl⟩ | ⟨-, rfl⟩ := hcase <;> exact hub
  | decFrameout =>
    obtain ⟨-, -, -, ⟨-, rfl⟩ | ⟨-, -, rfl⟩⟩ := execDecFrameout_eq_next h <;> exact hb

/-! ## An engine that stays silent -/

theorem hungState_waiting (e : EnginePort) (s : State) : Waiting s (hungState e s) 0 := by
  constructor <;> rfl

/-- An operation that reaches `hungState` waits at once. -/
theorem waitsAtOnce_of_exec {i : Instr} {call : EngineCall} {s : State} {q : EnginePort}
    (h : exec i s = .next (hungState { q with calls := s.engine.calls ++ [call] } s)) : WaitsAtOnce i call s q :=
  ⟨_, h, hungState_waiting _ s, rfl, fun _ => rfl, fun _ => rfl, fun _ => rfl, rfl, rfl, rfl, rfl⟩

theorem create_silent {d : Dir} {rest : List (Reply (Option Nat))} {s : State} (hd : s.dir = d) (hb : s.busy = false)
    (hl : s.life = .uncreated) (he : s.engine.creates = .silent :: rest) : create d s = .next (hungState
      { s.engine with creates := rest, calls := s.engine.calls ++ [createCall d] } s) := by
  rw [create_eq hd hb hl, engineCreate_queued (s := s.startOp) he]
  rfl

theorem destroy_silent {d : Dir} {h : Handle} {rest : List (Reply Unit)} {s : State} (hd : s.dir = d)
    (hb : s.busy = false) (hh : s.handle = some h) (he : s.engine.destroys = .silent :: rest) :
    destroy d s = .next (hungState
      { s.engine with destroys := rest, calls := s.engine.calls ++ [destroyCall d h] } s) := by
  rw [destroy_eq_some hd hb hh, engineDestroy_queued (s := s.startOp) he]
  rfl

/-- R94, R145: the loop of ENC.FRAMEOUT whose next unit is not answered ends in that unit's call. -/
theorem encodeUnits_silent {n k c : Nat} {s u : State} {rest : List (Reply EncodeAnswer)} (hb : s.busy = false)
    (hu : encodeUnits n c s = .next u) (hub : u.busy = false) (hc : c + Config.UNIT * n + Config.UNIT ≤ Config.CAP)
    (he : u.engine.encodes = .silent :: rest) :
    encodeUnits (n + (k + 1)) c s = .next (unitCalled (c + Config.UNIT * n) rest u).hang := by
  rw [encodeUnits_add (k + 1) n c s hb, hu, unlessHung_next_of_idle _ hub, encodeUnits, encodeUnit_queued hc he]
  exact unlessHung_next_of_hung _ rfl

/-- The state in which the answer to a stride's call comes in, with `rest` still queued (R102). -/
def strideCalled (q : Stride) (rest : List (Reply Block)) (s : State) : State :=
  ((repackDecode q s).2.setPhase .frameReady).setEngine { s.engine with
    decodes := rest, calls := s.engine.calls ++ [.decode s.handle (unpackFrame q) Config.bfiGood] }

theorem decodeStride_queued {data : List Byte} {x : Nat} {s : State} {q : Stride} {r : Reply Block}
    {rest : List (Reply Block)} (hq : readStride data x = some q) (he : s.engine.decodes = r :: rest) :
    decodeStride data x s = decodeAnswered r (strideCalled q rest s) := by
  obtain ⟨m, hm, -⟩ := repackDecode_state q s
  rw [decodeStride_eq hq, engineDecode_queued (rest := rest) (r := r) (by rw [hm]; exact he), strideCalled, hm]
  rfl

/-- R102, R145: the loop of DEC.FRAMEIN whose next stride is not answered ends in that stride's call. -/
theorem decodeStrides_silent {data : List Byte} {n k x : Nat} {s u : State} {q : Stride} {rest : List (Reply Block)}
    (hb : s.busy = false) (hu : decodeStrides data n x s = .next u) (hub : u.busy = false)
    (hq : readStride data (x + Config.PSTRIDE * n) = some q) (he : u.engine.decodes = .silent :: rest) :
    decodeStrides data (n + (k + 1)) x s = .next (strideCalled q rest u).hang := by
  rw [decodeStrides_add (k + 1) n x s hb, hu, unlessHung_next_of_idle _ hub, decodeStrides, decodeStride_queued hq he]
  exact unlessHung_next_of_hung _ rfl

/-- ENC.FRAMEOUT whose loop waits (R145). -/
theorem execEncFrameout_hung {s t : State} (hb : s.busy = false) (hd : s.dir = .enc) (hl : s.life = .live)
    (ht : encodeUnits (unitCount s.samples) 0 s.startOp = .next t) (htb : t.busy = true) :
    execEncFrameout s = .next t := by
  unfold execEncFrameout
  rw [publicOp_open _ hd hb, ifLive_open _ hl, ht, unlessHung_next_of_hung _ htb]

/-- DEC.FRAMEIN whose loop waits (R145). -/
theorem execDecFramein_hung {len : BitVec 16} (n : BitVec 16) {data : List Byte} {s t : State} (hb : s.busy = false)
    (hd : s.dir = .dec) (hl : s.life = .live)
    (ht : decodeStrides data (strideCount len.toNat) 0 s.startOp = .next t) (htb : t.busy = true) :
    execDecFramein len n data s = .next t := by
  unfold execDecFramein
  rw [publicOp_open _ hd hb, ifLive_open _ hl, ht, unlessHung_next_of_hung _ htb]

/-- R102: `W` holds the stride's rebuilt frame when its call is made. -/
theorem strideCalled_wAt (q : Stride) (rest : List (Reply Block)) (s : State) {i : Nat} (h : i < 32) :
    (strideCalled q rest s).wAt i = (unpackFrame q)[i] :=
  (repackDecode_wAt q s i).trans (dif_pos h)

/-- Settles O36: the loops' laws give the units or strides answered before; the call after them only adds itself. -/
theorem silentEngineHoldsOperation : Obligations.SilentEngineHoldsOperation := by
  refine ⟨?create, ?destroy, ?frameout, ?framein⟩
  case create =>
    intro d rest s hb hd hl he
    exact waitsAtOnce_of_exec ((exec_createInstr d s).trans (create_silent hd hb hl he))
  case destroy =>
    intro d h rest s hb hd hh he
    exact waitsAtOnce_of_exec ((exec_destroyInstr d s).trans (destroy_silent hd hb hh he))
  case frameout =>
    intro as rest s hb hd hl hc hlen he
    have hfit : 0 + Config.UNIT * as.length + Config.UNIT ≤ Config.CAP := by
      simp only [Config.UNIT]; omega
    obtain ⟨u, hrun, keeps, hub, -, hchain, hlog, hencodes, hcalls, -, hdraws, hlast, hnone⟩ :=
      encodeUnits_answered as 0 s.startOp (.silent :: rest) hb (Nat.le_of_add_right_le hfit) he
    obtain ⟨k, hk⟩ := Nat.exists_eq_add_of_lt hlen
    have hcount : as.length + (k + 1) = unitCount s.samples := hk.symm
    have hloop := encodeUnits_silent (s := s.startOp) (k := k) hb hrun hub hfit hencodes
    have hframes : u.chain = framesFor as s.draws := by simpa using hchain
    have hunits : ∀ k, s.startOp.slice (0 + Config.UNIT * k) Config.UNIT = s.unit k := by
      intro k; rw [Nat.zero_add]; rfl
    rw [hcount] at hloop
    refine ⟨_, execEncFrameout_hung hb hd hl hloop rfl, ?waiting, rfl, keeps.sampleAt, keeps.wAt, hframes, hlog,
      hdraws, ?engine, ?lastFrame, ?noFrame⟩
    case waiting =>
      exact ⟨rfl, rfl, keeps.dir, keeps.emitPerUnit, keeps.inbox, keeps.resetLine, keeps.life, keeps.handle,
        keeps.samples, keeps.datalen⟩
    case engine =>
      rw [State.hang_engine, unitCalled, State.setEngine_engine, keeps.engine_eq, hcalls, keeps.handle, keeps.slice,
        List.range_succ, List.map_append]
      simp only [hunits, List.append_assoc]
      rfl
    case lastFrame => exact fun p (hp : u.chain.getLast? = _) => hlast p (hframes ▸ hp)
    case noFrame => exact fun (h0 : u.chain = []) => hnone (hframes ▸ h0)
  case framein =>
    intro len nsamp data bs rest s hb hd hl hdata hlen he hc
    have hfit : Config.PSTRIDE * bs.length + Config.PSTRIDE ≤ data.length := by
      simp only [Config.PSTRIDE]; omega
    obtain ⟨u, hrun, keeps, hub, -, hsamples, hdatalen, hdecodes, hblocks, houtside, hcalls, -, -⟩ :=
      decodeStrides_answered (data := data) bs 0 s.startOp (.silent :: rest) hb hd (by omega) he hc
    obtain ⟨k, hk⟩ := Nat.exists_eq_add_of_lt hlen
    have hcount : bs.length + (k + 1) = strideCount len.toNat := hk.symm
    have hread : readStride data (Config.PSTRIDE * 0 + Config.PSTRIDE * bs.length) =
        some (strideOf data bs.length) := by
      rw [Nat.mul_zero, Nat.zero_add]
      exact readStride_strideOf hfit
    have hloop := decodeStrides_silent (s := s.startOp) (k := k) hb hrun hub hread hdecodes
    rw [hcount, Nat.mul_zero] at hloop
    refine ⟨_, execDecFramein_hung nsamp hb hd hl hloop rfl, ?waiting, rfl, hblocks, houtside,
      fun i => strideCalled_wAt _ rest u, keeps.obAt, keeps.chain, keeps.log, keeps.draws, ?engine⟩
    case waiting =>
      have hbytes : u.datalen = s.datalen + 2 * (160 * bs.length) := by
        rw [hdatalen]; simp only [State.startOp_datalen, Config.UNIT_BYTES]; omega
      exact ⟨rfl, rfl, keeps.dir, keeps.emitPerUnit, keeps.inbox, keeps.resetLine, keeps.life, keeps.handle, hsamples,
        hbytes⟩
    case engine =>
      rw [State.hang_engine, strideCalled, State.setEngine_engine, keeps.engine_eq, hcalls, keeps.handle,
        List.range_succ, List.map_append]
      simp only [Nat.zero_add, List.append_assoc]
      rfl

end Sys2Proof.Machine
end
